-- ==== Sys2Proof/Word.lean ====
section
/-! DEFINITION. The word type and the two port vectors of MPAU-256 (spec/00_scope.md R11, R12; spec/30_encoding.md R61, R62). -/

namespace Sys2Proof

/-- One 256-bit operand or result word, bit 255 the most significant (R11, R24).
`BitVec.toNat` is the rule's `u(w)`, `BitVec.toInt` its two's complement `s(w)` (R12). -/
abbrev Word := BitVec 256

/-- The request vector REQ520: op in bits 519:512, operand a in 511:256, operand b in 255:0 (R61). -/
abbrev Request := BitVec 520

/-- The response vector RSP516: status in bits 515:512, r0 in 511:256, r1 in 255:0 (R62). -/
abbrev ResponseVector := BitVec 516

end Sys2Proof
end

