-- ==== Sys2Proof/Config.lean ====
section
/-! DEFINITION. The constants of the unit: the parameters the source fixes (spec/00_scope.md R9, spec/10_state.md R33),
the constant store, whose fields are the open parameters of R10, and the values the spec leaves unstated. The defaults of R28 to R32 are in
Machine/DefaultStore.lean. -/

namespace Sys2Proof

/-- `MIN_TICK` (R9). -/
def minTick : Int := -887272
/-- `MAX_TICK` (R9). -/
def maxTick : Int := 887272
/-- How many ticks lie above `MIN_TICK`: `MAX_TICK - MIN_TICK` (R9). -/
def tickSpan : Nat := 1774544
/-- `WORD_MAX` (R33). -/
def wordMax : Int := 2 ^ 256 - 1
/-- `SWORD_MAX` (R33). -/
def swordMax : Int := 2 ^ 255 - 1
/-- `SWORD_MIN` (R33). -/
def swordMin : Int := -(2 ^ 255)
/-- `DENSITY_MASK` (R26, R33). -/
def densityMask : Nat := 0x1FF
/-- `DENSITY_MANTISSA_MASK` (R26, R33). -/
def densityMantissaMask : Nat := 3
/-- `DENSITY_IMPLICIT_ONE`, which is also the step of the exponent field of a packed density (R26, R33). -/
def densityImplicitOne : Nat := 4
/-- The first value above the 96.32 format (R24 f). -/
def fixBound : Nat := 2 ^ 128
/-- `RATIO_TOP_BIT`, the least normalized mantissa (R25, R33). -/
def ratioTopBit : Nat := 2 ^ 127
/-- The first value above the normalized mantissas (R25). -/
def ratioBound : Nat := 2 ^ 128

/-- A ratio pair, standing for `mantissa * 2^(-exponent)` (R25). The exponent is a mathematical integer, because
the normalizer's is one before a command tests it (R161). -/
structure Ratio where
  mantissa : Nat
  exponent : Int
deriving DecidableEq, Repr

/-- One entry of the power table: `POW_TABLE[i]` and `POW_SHIFT[i]` (R10, R28). -/
structure PowEntry where
  value : Nat
  shift : Nat
deriving DecidableEq, Repr

/-- The constant store: the configuration record that the step function receives (R10, R27). No command writes it. -/
structure Config where
  /-- `POW_TABLE[0..19]` and `POW_SHIFT[0..19]`. -/
  pow : Vector PowEntry 20
  /-- `LOG_BP_2X235`. -/
  logBp : Nat
  /-- `TICK_ERR_LOW`. -/
  tickErrLow : Nat
  /-- `TICK_ERR_HIGH`. -/
  tickErrHigh : Nat
  /-- `MIN_RATIO_MANTISSA`, `MIN_RATIO_EXP`. -/
  minRatio : Ratio
  /-- `MAX_RATIO_MANTISSA`, `MAX_RATIO_EXP`. -/
  maxRatio : Ratio
  /-- `MAX_SAFE_VOLUME`. -/
  maxSafeVolume : Nat
deriving DecidableEq, Repr

/-- FREE VALUE. The tick that `TFV` answers, as places above `MIN_TICK`, for a constant store and two amounts whose ratio
lies outside `[MIN_RATIO, MAX_RATIO]`. No rule states it: R172 defines the tick of a ratio inside that range only, and
R177 supposes that every ratio lies there, which a store within R10 with `MAX_SAFE_VOLUME` of `2^127` or more need not
grant (DESIGN CHOICE, log entry 19). A function of the store and the operands alone, as R46 asks of a response; a tick
of the legal range, as R24 c asks of a tick. -/
opaque Config.unstatedTick (c : Config) (inbound outbound : Word) : Fin (tickSpan + 1)

/-- FREE VALUE. How many units in the last place beyond the first a power table entry may lie below what it
approximates: the spec puts no bound on "approximates" (R10; DESIGN CHOICE, log entry 20). -/
opaque Config.powTolerance : Nat

/-- FREE VALUE. How many units beyond the first `LOG_BP_2X235` may lie from what it approximates: the spec puts no bound
on "approximates" (R10; DESIGN CHOICE, log entry 20). -/
opaque Config.logTolerance : Nat

end Sys2Proof
end

