-- ==== Sys2Proof/Machine/Formats.lean ====
section
/-! DEFINITION. The formats of the values on the ports (spec/00_scope.md R12; spec/10_state.md R24, R25): words from
integers, and the order and the normal form of ratio pairs. -/

namespace Sys2Proof

/-- `word_u(n)`; a result that a rule truncates is truncated here, `n mod 2^256` (R11, R12). -/
def wordU (n : Nat) : Word := BitVec.ofNat 256 n

/-- `word_s(n) = word_u(n mod 2^256)`, two's complement (R12). -/
def wordS (n : Int) : Word := BitVec.ofInt 256 n

/-- `ratio_lt`, the one order on ratio pairs: the larger exponent is the smaller ratio (R25, conflict C1). -/
def Ratio.lt (x y : Ratio) : Bool :=
  decide (y.exponent < x.exponent) || (decide (x.exponent = y.exponent) && decide (x.mantissa < y.mantissa))

/-- `ratio_le` (R25). -/
def Ratio.le (x y : Ratio) : Bool := !(y.lt x)

/-- A mantissa that occupies exactly 128 bits (R25). -/
def Ratio.normalized (x : Ratio) : Bool := decide (ratioTopBit ≤ x.mantissa) && decide (x.mantissa < ratioBound)

/-- A normalized pair that two words can carry: the exponent of a ratio pair is a `uword` (R25). -/
def Ratio.wordPair (x : Ratio) : Bool := x.normalized && decide (0 ≤ x.exponent) && decide (x.exponent ≤ wordMax)

/-- A normalized pair whose exponent lies in `[0, 255]`: what R10 requires of every result of `rft`. -/
def Ratio.legal (x : Ratio) : Bool := x.normalized && decide (0 ≤ x.exponent) && decide (x.exponent ≤ 255)

end Sys2Proof
end

