-- ==== Sys2Proof/Syntax.lean ====
section
/-! DEFINITION. The command set: one constructor for each of the 27 rows of the opcode table
(spec/30_encoding.md R64, R65). An operand that R65 marks "ignored" is not part of the command (R67). -/

namespace Sys2Proof

/-- A decoded command with its operand words, in the order `a`, `b` of the request (R61, R65). -/
inductive Instr where
  /-- `SHL`: shift amount, value (R101). -/
  | shl (a b : Word)
  /-- `SHR`: shift amount, value (R102). -/
  | shr (a b : Word)
  /-- `NOT` (R103). -/
  | not (a : Word)
  /-- `AND` (R104). -/
  | and (a b : Word)
  /-- `OR` (R105). -/
  | or (a b : Word)
  /-- `ADDU` (R107). -/
  | addu (a b : Word)
  /-- `SUBU`: minuend, subtrahend (R108). -/
  | subu (a b : Word)
  /-- `MULU` (R109). -/
  | mulu (a b : Word)
  /-- `ADDS` (R110). -/
  | adds (a b : Word)
  /-- `SUBS`: minuend, subtrahend (R111). -/
  | subs (a b : Word)
  /-- `MULS` (R112). -/
  | muls (a b : Word)
  /-- `CTZ64` (R134). -/
  | ctz64 (a : Word)
  /-- `FLS` (R135). -/
  | fls (a : Word)
  /-- `DFROM`: a 96.32 value (R142). -/
  | dfrom (a : Word)
  /-- `DTO`: a density (R144). -/
  | dto (a : Word)
  /-- `DMUL`: density, volume (R145). -/
  | dmul (a b : Word)
  /-- `DMULUP`: density, volume (R146). -/
  | dmulup (a b : Word)
  /-- `NORM`: mantissa, exponent (R162). -/
  | norm (a b : Word)
  /-- `RFT`: tick (R167). -/
  | rft (a : Word)
  /-- `TFNR`: normalized mantissa, exponent (R174). -/
  | tfnr (a b : Word)
  /-- `TFR`: mantissa, exponent (R175). -/
  | tfr (a b : Word)
  /-- `RFV`: inbound amount, outbound amount (R176). -/
  | rfv (a b : Word)
  /-- `TFV`: inbound amount, outbound amount (R177). -/
  | tfv (a b : Word)
  /-- `IFO`: tick, outbound amount (R191). -/
  | ifo (a b : Word)
  /-- `IFOUP`: tick, outbound amount (R192). -/
  | ifoup (a b : Word)
  /-- `OFI`: tick, inbound amount (R193). -/
  | ofi (a b : Word)
  /-- `OFIUP`: tick, inbound amount (R194). -/
  | ofiup (a b : Word)
deriving DecidableEq, Repr

end Sys2Proof
end

