-- ==== Sys2Proof/WellFormed.lean ====
section
/-! DEFINITION. What is checked of syntax and of a constant store before a claim speaks of it.
A command carries whole words and the decoder restricts none of them (spec/30_encoding.md R65), so the checks are those
that spec/00_scope.md R10 puts on a constant store. -/

namespace Sys2Proof

/-- Every command is well formed: each operand is a whole word, and range restrictions are tested by the command and
reported as its error kind, never by the decoder (R65). -/
def Instr.wellFormed (_ : Instr) : Bool := true

/-- Each `POW_TABLE[i]` lies in `[2^127, 2^128)` (R10). -/
def Config.powInRange (c : Config) : Bool :=
  c.pow.toList.all fun e => decide (ratioTopBit ≤ e.value) && decide (e.value < ratioBound)

/-- `POW_SHIFT[0] = 0` (R10). -/
def Config.firstShiftZero (c : Config) : Bool := decide ((c.pow.get 0).shift = 0)

/-- `TICK_ERR_LOW + TICK_ERR_HIGH < 2^248` (R10). -/
def Config.errorsInRange (c : Config) : Bool := decide (c.tickErrLow + c.tickErrHigh < 2 ^ 248)

/-- The sentinel ratios are normalized (spec/93_implementation_defined.md I17) pairs of words (R25; log entry 7). -/
def Config.sentinelsLegal (c : Config) : Bool := c.minRatio.wordPair && c.maxRatio.wordPair

/-- `MAX_SAFE_VOLUME * (2^128 - 1) < 2^256` and `MAX_SAFE_VOLUME * 2^128 < 2^256` (R10). -/
def Config.volumeInRange (c : Config) : Bool :=
  decide (c.maxSafeVolume * (2 ^ 128 - 1) < 2 ^ 256) && decide (c.maxSafeVolume * 2 ^ 128 < 2 ^ 256)

/-- The constraints of R10 that can be read off the constant store itself. Those that speak of `rft` are
`Config.Admissible` in Safety.lean. -/
def Config.wellFormed (c : Config) : Bool :=
  c.powInRange && c.firstShiftZero && c.errorsInRange && c.sentinelsLegal && c.volumeInRange

end Sys2Proof
end

