-- ==== Sys2Proof/Decode.lean ====
section
/-! DEFINITION. The request vector, the decoder and the encoder (spec/30_encoding.md R61, R64 to R67), and the
host's view of the opcode table's words. -/

namespace Sys2Proof

/-- `REQ = op * 2^512 + u(a) * 2^256 + u(b)` (R61). -/
def Request.make (op : BitVec 8) (a b : Word) : Request :=
  BitVec.ofNat 520 (op.toNat * 2 ^ 512 + a.toNat * 2 ^ 256 + b.toNat)

/-- `REQ[519:512]` (R61). -/
def Request.op (r : Request) : BitVec 8 := r.extractLsb' 512 8

/-- `REQ[511:256]` (R61). -/
def Request.a (r : Request) : Word := r.extractLsb' 256 256

/-- `REQ[255:0]` (R61). -/
def Request.b (r : Request) : Word := r.extractLsb' 0 256

/-- Why the decoder rejects a request: the one reason is an unassigned opcode (R66). -/
inductive DecodeError where
  /-- The opcode field holds none of the 27 assigned values; the unit answers `IllegalOp` (R66). -/
  | unassignedOpcode (op : BitVec 8)
deriving DecidableEq, Repr

/-- The opcode map on the three fields of a request: the whole 8-bit field selects the command and no other bit takes
part (R64); an ignored operand word is dropped (R67). -/
def decodeFields (op : BitVec 8) (a b : Word) : Except DecodeError Instr :=
  match op with
  | 0x00#8 => .ok (.shl a b)
  | 0x01#8 => .ok (.shr a b)
  | 0x02#8 => .ok (.not a)
  | 0x03#8 => .ok (.and a b)
  | 0x04#8 => .ok (.or a b)
  | 0x10#8 => .ok (.addu a b)
  | 0x11#8 => .ok (.subu a b)
  | 0x12#8 => .ok (.mulu a b)
  | 0x18#8 => .ok (.adds a b)
  | 0x19#8 => .ok (.subs a b)
  | 0x1A#8 => .ok (.muls a b)
  | 0x20#8 => .ok (.ctz64 a)
  | 0x21#8 => .ok (.fls a)
  | 0x30#8 => .ok (.dfrom a)
  | 0x31#8 => .ok (.dto a)
  | 0x32#8 => .ok (.dmul a b)
  | 0x33#8 => .ok (.dmulup a b)
  | 0x40#8 => .ok (.norm a b)
  | 0x41#8 => .ok (.rft a)
  | 0x42#8 => .ok (.tfnr a b)
  | 0x43#8 => .ok (.tfr a b)
  | 0x44#8 => .ok (.rfv a b)
  | 0x45#8 => .ok (.tfv a b)
  | 0x48#8 => .ok (.ifo a b)
  | 0x49#8 => .ok (.ifoup a b)
  | 0x4A#8 => .ok (.ofi a b)
  | 0x4B#8 => .ok (.ofiup a b)
  | other => .error (.unassignedOpcode other)

/-- The decoder: total on all `2^520` request vectors (R60, R64). -/
def decode (r : Request) : Except DecodeError Instr := decodeFields r.op r.a r.b

/-- The opcode value of a command (R64). -/
def Instr.opcode : Instr → BitVec 8
  | .shl _ _ => 0x00#8
  | .shr _ _ => 0x01#8
  | .not _ => 0x02#8
  | .and _ _ => 0x03#8
  | .or _ _ => 0x04#8
  | .addu _ _ => 0x10#8
  | .subu _ _ => 0x11#8
  | .mulu _ _ => 0x12#8
  | .adds _ _ => 0x18#8
  | .subs _ _ => 0x19#8
  | .muls _ _ => 0x1A#8
  | .ctz64 _ => 0x20#8
  | .fls _ => 0x21#8
  | .dfrom _ => 0x30#8
  | .dto _ => 0x31#8
  | .dmul _ _ => 0x32#8
  | .dmulup _ _ => 0x33#8
  | .norm _ _ => 0x40#8
  | .rft _ => 0x41#8
  | .tfnr _ _ => 0x42#8
  | .tfr _ _ => 0x43#8
  | .rfv _ _ => 0x44#8
  | .tfv _ _ => 0x45#8
  | .ifo _ _ => 0x48#8
  | .ifoup _ _ => 0x49#8
  | .ofi _ _ => 0x4A#8
  | .ofiup _ _ => 0x4B#8

/-- The two operand words of a command; an ignored second operand is sent as 0 (R75). -/
def Instr.operands : Instr → Word × Word
  | .not a => (a, 0)
  | .ctz64 a => (a, 0)
  | .fls a => (a, 0)
  | .dfrom a => (a, 0)
  | .dto a => (a, 0)
  | .rft a => (a, 0)
  | .shl a b => (a, b)
  | .shr a b => (a, b)
  | .and a b => (a, b)
  | .or a b => (a, b)
  | .addu a b => (a, b)
  | .subu a b => (a, b)
  | .mulu a b => (a, b)
  | .adds a b => (a, b)
  | .subs a b => (a, b)
  | .muls a b => (a, b)
  | .dmul a b => (a, b)
  | .dmulup a b => (a, b)
  | .norm a b => (a, b)
  | .tfnr a b => (a, b)
  | .tfr a b => (a, b)
  | .rfv a b => (a, b)
  | .tfv a b => (a, b)
  | .ifo a b => (a, b)
  | .ifoup a b => (a, b)
  | .ofi a b => (a, b)
  | .ofiup a b => (a, b)

/-- The request vector of a command (R61, R64). -/
def encode (i : Instr) : Request := Request.make i.opcode i.operands.1 i.operands.2

/-- The request that the opcode table's numbering `w` stands for: the table's first word is the 8-bit field `op`
(its bits 7..0), the operand words follow it, `a` then `b`, and every bit at or above `nbits` is 0
(DESIGN CHOICE, log entry 4: the table numbers no operand bit). -/
def tableRequest (nbits w : Nat) : Request :=
  let v := w % 2 ^ min nbits 520
  Request.make (BitVec.ofNat 8 v) (BitVec.ofNat 256 (v / 2 ^ 8)) (BitVec.ofNat 256 (v / 2 ^ 264))

/-- The command the decoder reads from a word numbered as the opcode table numbers it. -/
def decodeTableWord (nbits w : Nat) : Option Instr :=
  match decode (tableRequest nbits w) with
  | .ok i => some i
  | .error _ => none

end Sys2Proof
end

