-- ==== Sys2Proof/Machine/DefaultStore.lean ====
section
/-! DEFINITION. The default instantiation of the constant store (spec/10_state.md R28 to R32). -/

namespace Sys2Proof

/-- The default power table (R28). -/
def Config.defaultPow : Vector PowEntry 20 :=
  #v[
    ⟨0xfff97272373d413259a46990580e2139, 0⟩,
    ⟨0xfff2e50f5f656932ef12357cf3c7fdcb, 0⟩,
    ⟨0xffe5caca7e10e4e61c3624eaa0941ccf, 0⟩,
    ⟨0xffcb9843d60f6159c9db58835c926643, 0⟩,
    ⟨0xff973b41fa98c081472e6896dfb254bf, 0⟩,
    ⟨0xff2ea16466c96a3843ec78b326b52860, 0⟩,
    ⟨0xfe5dee046a99a2a811c461f1969c3052, 0⟩,
    ⟨0xfcbe86c7900a88aedcffc83b479aa3a3, 0⟩,
    ⟨0xf987a7253ac413176f2b074cf7815e53, 0⟩,
    ⟨0xf3392b0822b70005940c7a398e4b70f2, 0⟩,
    ⟨0xe7159475a2c29b7443b29c7fa6e889d8, 0⟩,
    ⟨0xd097f3bdfd2022b8845ad8f792aa5825, 0⟩,
    ⟨0xa9f746462d870fdf8a65dc1f90e061e4, 0⟩,
    ⟨0xe1b0d342ada5437121767bec575e65ed, 1⟩,
    ⟨0xc6f84d7e5f423f66048c541550bf3e96, 2⟩,
    ⟨0x9aa508b5b7a84e1c677de54f3e99bc8f, 4⟩,
    ⟨0xbad5f1bdb70232cd33865244bdcc089c, 9⟩,
    ⟨0x885b9613d7e87aa498106fb7fa5edd37, 18⟩,
    ⟨0x9142e0723efb884889d1f447715afacd, 37⟩,
    ⟨0xa4d9a773d61316918f140bd96e8e6814, 75⟩
  ]

/-- The default instantiation (R28 to R32): the values the spec itself gives the open parameters. -/
def Config.default : Config where
  pow := Config.defaultPow
  logBp := 382733217082594961806491056566382061424140926068392360945012727618364717537
  tickErrLow := 2 ^ 241
  tickErrHigh := 55 * 2 ^ 242
  minRatio := ⟨0x800276a52a62a71c29fc1cc441e523bc, 255⟩
  maxRatio := ⟨0xfffb12cdf1087799c03e5a811a7aaa1c, 0⟩
  maxSafeVolume := 2 ^ 127 - 1

end Sys2Proof
end

