-- ==== Sys2Proof/Machine/State.lean ====
section
/-! DEFINITION. The machine's state (spec/10_state.md R20 to R23, R27, R36), its responses and error kinds
(spec/60_exceptions.md R200), and the reasons a step can stop.

The unit has no registers, program counter, flags, modes or memory (R20 to R23, R34). What a run of it needs is the
constant store that every command reads (R27) and the contents of its two ports (R61, R62): log entries 1 and 2. -/

namespace Sys2Proof.Machine

/-- The error kinds of R200, the two sub-kinds of `TickOutOfRange` apart. -/
inductive ErrorKind where
  | overflow
  | underflow
  /-- `TickOutOfRange.tooLow`. -/
  | tickTooLow
  /-- `TickOutOfRange.tooHigh`. -/
  | tickTooHigh
  | invalidDensity
  | zeroMantissa
  | volumeTooLarge
  | badOperand
  | illegalOp
deriving DecidableEq, Repr

/-- A response as R62 suggests holding it: a result, or an error kind, whose result words are zero by R63. -/
inductive Response where
  | ok (r0 r1 : Word)
  | err (kind : ErrorKind)
deriving DecidableEq, Repr

/-- The whole state. -/
structure State where
  /-- The constant store: read by commands, written by none, the same before and after every reset (R27, R231). -/
  config : Config
  /-- The request port: the request the host has presented and the unit has not yet accepted (R60, R61). -/
  request : Option Request
  /-- The response port: the response the unit has presented; `none` is idle (R36, R62). -/
  response : Option Response
deriving DecidableEq, Repr

/-- The reasons the machine could stop with a fault: none. "A command either returns its result or fails with exactly
one error kind", and a failure is a response (R7, R204); no hang, no double fault (R205). -/
inductive Fault where
deriving DecidableEq, Repr

/-- The reasons the model gives an instruction no meaning. -/
inductive Refusal where
  /-- Raised by an arm of `exec` whose instruction has no meaning yet. Safe: the machine would go on. -/
  | notModelled (mnemonic : String)
  /-- Raised by the tick and ratio commands when the constant store breaks a constraint of R10 in a way the command
  meets: an `rft` result, or the ratio of two amounts, that is not a normalized pair with exponent in `[0, 255]`; a
  sentinel ratio that is not a normalized pair of words; or no tick whose ratio is at or below a pair inside
  `[MIN_RATIO, MAX_RATIO]`. Never under a store that meets R10. The spec's treatment of such a store is `refuse`: it "gives the unit no meaning under such a
  record" (spec/93_implementation_defined.md I17). Safe. -/
  | constantStoreOutsideDomain
deriving DecidableEq, Repr

/-- The machine right after reset: both ports idle, the constant store at its configured values (R36, R230, R231);
those are the default instantiation of R28 to R32 (log entry 3). -/
def State.reset : State where
  config := Config.default
  request := none
  response := none

end Sys2Proof.Machine
end

