-- ==== Sys2Proof/Machine/Ops.lean ====
section
/-! DEFINITION. The shared operations of the machine: the ports, the end of a command with a result or an error
(spec/00_scope.md R13; spec/60_exceptions.md R204), reset (spec/70_reset_and_hazards.md R230), and the response
vector (spec/30_encoding.md R62, R63). -/

namespace Sys2Proof.Machine

/-- Why the evaluation of a command ends without a result. -/
inductive Stop where
  /-- `raise <Kind>` (R13). -/
  | raise (kind : ErrorKind)
  /-- The constant store is outside the spec's domain (spec/93_implementation_defined.md I17). -/
  | outsideDomain
deriving DecidableEq, Repr

/-- What the pseudocode of a rule computes: a value, or the first `raise` it reaches (R13, R203). -/
abbrev Eval (α : Type) := Except Stop α

/-- `raise <Kind>` (R13): nothing after it is executed. -/
def raise {α : Type} (kind : ErrorKind) : Eval α := .error (.raise kind)

/-- The results of a command with one result: `r1 = 0` (R13, R63). -/
def single (r0 : Word) : Word × Word := (r0, 0)

/-- The host presents a request on the request port (R60). -/
def State.present (s : State) (r : Request) : State := { s with request := some r }

/-- The unit accepts the presented request: it leaves the port, and the response of the command before it has been
given (R47). -/
def State.accept (s : State) : State := { s with request := none, response := none }

/-- The unit presents a response: the only write a command makes (R14). -/
def State.deliver (s : State) (r : Response) : State := { s with response := some r }

/-- Taking an error, the unit's only exception: the response carries the kind, and nothing else happens; no state is
saved, no mode changes, control goes nowhere (R204). There is no return from it (R205). -/
def State.takeError (s : State) (kind : ErrorKind) : State := s.deliver (.err kind)

/-- Reset, however delivered: a command in progress is abandoned without a response and the response port is idle; the
constant store is not affected (R230, R231). -/
def State.applyReset (s : State) : State := { s with request := none, response := none }

/-- The end of a command: `return` presents the result words, `raise` takes the error (R13, R204). -/
def answer (s : State) : Eval (Word × Word) → Host.Outcome State Fault Refusal
  | .ok r => .next (s.deliver (.ok r.1 r.2))
  | .error (.raise kind) => .next (s.takeError kind)
  | .error .outsideDomain => .refused .constantStoreOutsideDomain

/-- The status codes of the error kinds (R201). -/
def ErrorKind.code : ErrorKind → BitVec 4
  | .overflow => 1
  | .underflow => 2
  | .tickTooLow => 3
  | .tickTooHigh => 4
  | .invalidDensity => 5
  | .zeroMantissa => 6
  | .volumeTooLarge => 7
  | .badOperand => 14
  | .illegalOp => 15

/-- The status field of a response; 0 is `OK` (R62, R201). -/
def Response.status : Response → BitVec 4
  | .ok _ _ => 0
  | .err kind => kind.code

/-- The first result word; zero on an error (R63). -/
def Response.r0 : Response → Word
  | .ok r0 _ => r0
  | .err _ => 0

/-- The second result word; zero on an error (R63). -/
def Response.r1 : Response → Word
  | .ok _ r1 => r1
  | .err _ => 0

/-- `RSP = status * 2^512 + u(r0) * 2^256 + u(r1)` (R62). -/
def Response.pack (r : Response) : ResponseVector :=
  BitVec.ofNat 516 (r.status.toNat * 2 ^ 512 + r.r0.toNat * 2 ^ 256 + r.r1.toNat)

/-- The kind a status code names; 0 is `OK` and names none, and 8 to 13 are never produced (R201). -/
def ErrorKind.ofCode (code : BitVec 4) : Option ErrorKind :=
  match code with
  | 1#4 => some .overflow
  | 2#4 => some .underflow
  | 3#4 => some .tickTooLow
  | 4#4 => some .tickTooHigh
  | 5#4 => some .invalidDensity
  | 6#4 => some .zeroMantissa
  | 7#4 => some .volumeTooLarge
  | 14#4 => some .badOperand
  | 15#4 => some .illegalOp
  | _ => none

/-- A host's reading of a response vector; a status that names nothing, or an error with a result word that is not
zero, has no reading (R63, R201; spec/93_implementation_defined.md I2). -/
def Response.unpack (v : ResponseVector) : Option Response :=
  let r0 := v.extractLsb' 256 256
  let r1 := v.extractLsb' 0 256
  if v.extractLsb' 512 4 = 0 then some (.ok r0 r1)
  else if r0 = 0 ∧ r1 = 0 then (ErrorKind.ofCode (v.extractLsb' 512 4)).map .err
  else none

end Sys2Proof.Machine
end

