-- ==== Sys2Proof/Machine/Flags.lean ====
section
/-! DEFINITION. Overflow detection. The unit has no flags: a checked operation that leaves its range fails with an error
response and sets no bit (spec/10_state.md R22; spec/40_word_arith.md R106). -/

namespace Sys2Proof.Machine

/-- The unsigned range test on an exact result: above `2^256 - 1` is `Overflow`, below 0 is `Underflow`; a value in
range is returned unchanged (R106). -/
def checkedUnsigned (t : Int) : Eval Nat :=
  if wordMax < t then raise .overflow
  else if t < 0 then raise .underflow
  else .ok t.toNat

/-- The signed range test on an exact result: above `2^255 - 1` is `Overflow`, below `-2^255` is `Underflow`; a value
in range is returned unchanged (R106). -/
def checkedSigned (t : Int) : Eval Int :=
  if swordMax < t then raise .overflow
  else if t < swordMin then raise .underflow
  else .ok t

end Sys2Proof.Machine
end

