-- ==== Sys2Proof/Machine/Operands.lean ====
section
/-! DEFINITION. The operand forms: how a command reads an operand word under the format its rule names
(spec/10_state.md R24 to R26; spec/30_encoding.md R65), and the range tests on operands. -/

namespace Sys2Proof.Machine

/-- A `uword` operand (R24 a). -/
abbrev uword (w : Word) : Nat := w.toNat

/-- An `sword` operand (R24 b). -/
abbrev sword (w : Word) : Int := w.toInt

/-- A ratio pair presented as two `uword` operands (R25). -/
def ratioOperand (a b : Word) : Ratio := ⟨uword a, uword b⟩

/-- `tick_check(t)`: the tick as presented, before anything else (R163). -/
def tickCheck (t : Int) : Eval Unit :=
  if t < minTick then raise .tickTooLow
  else if maxTick < t then raise .tickTooHigh
  else .ok ()

/-- A `tick` operand: the whole signed word, tested against the tick range (R24 c, R163). -/
def tickOperand (w : Word) : Eval Int := do
  tickCheck (sword w)
  return sword w

/-- A `fix96x32` operand of the encoder: `2^128` and above has no 9-bit encoding (R24 f, R142). -/
def fixOperand (w : Word) : Eval Nat :=
  if fixBound ≤ uword w then raise .invalidDensity else .ok (uword w)

/-- The volume ceiling, tested on both amounts before the zero-amount cases (R176, R203). -/
def volumeCheck (c : Config) (inbound outbound : Nat) : Eval Unit :=
  if c.maxSafeVolume < inbound ∨ c.maxSafeVolume < outbound then raise .volumeTooLarge else .ok ()

/-- A ratio that the constant store's constraints promise to be legal (R10); a store that breaks the promise has no
meaning (spec/93_implementation_defined.md I17). -/
def legalRatio (r : Ratio) : Eval Ratio := if r.legal then .ok r else .error .outsideDomain

/-- The result words of a sentinel ratio, mantissa, then exponent; a sentinel that is not a normalized pair of words has no
meaning (R25; spec/93_implementation_defined.md I17). -/
def sentinelWords (r : Ratio) : Eval (Word × Word) :=
  if r.wordPair then .ok (wordU r.mantissa, wordU r.exponent.toNat) else .error .outsideDomain

/-- The result words of a legal ratio: mantissa, then exponent (R63, R65). -/
def ratioWords (r : Ratio) : Eval (Word × Word) := do
  let p ← legalRatio r
  return (wordU p.mantissa, wordU p.exponent.toNat)

end Sys2Proof.Machine
end

