-- ==== Sys2Proof/Machine/BitScan.lean ====
section
/-! DEFINITION. The bit scans: `ctz64` and `fls`, their bisection forms, and the commands `CTZ64` and `FLS`
(spec/41_bitscan.md R130 to R135). -/

namespace Sys2Proof.Machine

/-- How many of the low `width` bits of `y` are zero below its lowest set bit; `width` when all of them are zero. -/
def trailingZeros : (width : Nat) → (y : Nat) → Nat
  | 0, _ => 0
  | width + 1, y => if y % 2 = 1 then 0 else trailingZeros width (y / 2) + 1

/-- `ctz64(x)`: trailing zeros among the low 64 bits, 64 when they are all zero (R130). -/
def ctz64 (x : Nat) : Nat := trailingZeros 64 (x % 2 ^ 64)

/-- `fls(x)`: the index of the highest set bit, `floor(log2 x)`, and 256 for 0 (R132). -/
def fls (x : Nat) : Nat := if x = 0 then 256 else Nat.log2 x

/-- One halving of the `ctz64` bisection, on the value and the count (R131). -/
def ctzHalving (acc : Nat × Nat) (k : Nat) : Nat × Nat :=
  if acc.1 % 2 ^ k = 0 then (acc.1 / 2 ^ k, acc.2 + k) else acc

/-- The six-step bisection of R131, the rule's informative form of `ctz64`. -/
def ctz64Bisection (x : Nat) : Nat :=
  if x % 2 ^ 64 = 0 then 64 else ([32, 16, 8, 4, 2, 1].foldl ctzHalving (x % 2 ^ 64, 0)).2

/-- One halving of the `fls` bisection, on the value and the index (R133). -/
def flsHalving (acc : Nat × Nat) (k : Nat) : Nat × Nat :=
  if 2 ^ k ≤ acc.1 then (acc.1 / 2 ^ k, acc.2 + k) else acc

/-- The eight-step bisection of R133, the rule's informative form of `fls`. -/
def flsBisection (x : Nat) : Nat :=
  if x = 0 then 256 else ([128, 64, 32, 16, 8, 4, 2, 1].foldl flsHalving (x, 0)).2

/-- `CTZ64` (R134). -/
def execCtz64 (a : Word) (s : State) : Host.Outcome State Fault Refusal :=
  answer s (.ok (single (wordU (ctz64 (uword a)))))

/-- `FLS` (R135). -/
def execFls (a : Word) (s : State) : Host.Outcome State Fault Refusal :=
  answer s (.ok (single (wordU (fls (uword a)))))

end Sys2Proof.Machine
end

