-- ==== Sys2Proof/Machine/Density.lean ====
section
/-! DEFINITION. The density codec: `DFROM`, `DTO`, `DMUL`, `DMULUP` (spec/10_state.md R26; spec/42_density.md R140 to R146). -/

namespace Sys2Proof.Machine

/-- `density_encode(x)`, for `x < 2^128`: subnormal values verbatim, else the leading bit's index as exponent field and
the two bits below it as mantissa field; rounds toward zero (R141). -/
def densityEncode (x : Nat) : Nat :=
  if x ≤ densityMantissaMask then x
  else fls x * densityImplicitOne + x / 2 ^ (fls x - 2) % densityImplicitOne

/-- `density_decode(d)`: a value above the 9-bit mask and the exponent field 1 are rejected, in that order (R143,
conflict C2). -/
def densityDecode (d : Nat) : Eval Nat :=
  if densityMask < d then raise .invalidDensity
  else if d / densityImplicitOne = 1 then raise .invalidDensity
  else if d / densityImplicitOne = 0 then .ok (d % densityImplicitOne)
  else .ok ((densityImplicitOne + d % densityImplicitOne) * 2 ^ (d / densityImplicitOne - 2))

/-- The product of a decoded density and a volume, by the checked multiply (R145, R146, conflict C3). -/
def densityProduct (d m : Nat) : Eval Nat := do
  let f ← densityDecode d
  checkedUnsigned (f * m)

/-- `n / 2^k` rounded up: a nonzero remainder increments the quotient (R146, R190). -/
def ceilShift (n k : Nat) : Nat := if n % 2 ^ k = 0 then n / 2 ^ k else n / 2 ^ k + 1

/-- `DFROM` (R142). -/
def execDfrom (a : Word) (s : State) : Host.Outcome State Fault Refusal :=
  answer s (do
    let x ← fixOperand a
    return single (wordU (densityEncode x)))

/-- `DTO` (R144). -/
def execDto (a : Word) (s : State) : Host.Outcome State Fault Refusal :=
  answer s (do
    let f ← densityDecode (uword a)
    return single (wordU f))

/-- `DMUL`, rounding down (R145). -/
def execDmul (a b : Word) (s : State) : Host.Outcome State Fault Refusal :=
  answer s (do
    let p ← densityProduct (uword a) (uword b)
    return single (wordU (p / 2 ^ 32)))

/-- `DMULUP`, rounding up (R146). -/
def execDmulup (a b : Word) (s : State) : Host.Outcome State Fault Refusal :=
  answer s (do
    let p ← densityProduct (uword a) (uword b)
    return single (wordU (ceilShift p 32)))

end Sys2Proof.Machine
end

