-- ==== Sys2Proof/Machine/Tick.lean ====
section
/-! DEFINITION. The normalizer and the tick and ratio conversions: `NORM`, `RFT`, `TFNR`, `TFR`, `RFV`, `TFV`
(spec/43_ratio_tick.md R160 to R177). -/

namespace Sys2Proof.Machine

/-- `norm(m, e)`: the leading bit of the mantissa moves to bit 127, low bits dropped, and the exponent compensates; the
exponent is an unbounded integer here (R161). -/
def normalizeRatio (m : Nat) (e : Int) : Ratio where
  mantissa := if 127 < fls m then m / 2 ^ (fls m - 127) else m * 2 ^ (127 - fls m)
  exponent := e + 127 - fls m

/-- The running mantissa and shift count before the multiplications: `POW_TABLE[0]` for an odd magnitude, else `2^128`
(R166). -/
def powerStart (c : Config) (magnitude : Nat) : Nat × Nat :=
  if magnitude.testBit 0 then ((c.pow.get 0).value, (c.pow.get 0).shift) else (2 ^ 128, 0)

/-- The conditional multiplication for bit position `i`; the product drops its low 128 bits (R166). -/
def powerStep (c : Config) (magnitude : Nat) (acc : Nat × Nat) (i : Fin 20) : Nat × Nat :=
  if magnitude.testBit i then (acc.1 * (c.pow.get i).value / 2 ^ 128, acc.2 + (c.pow.get i).shift) else acc

/-- The bit positions of the multipliers, in the ascending order that must be kept (R166, conflict C4). -/
def multiplierPositions : List (Fin 20) := [1, 2, 3, 4, 5, 6, 7, 8, 9, 10, 11, 12, 13, 14, 15, 16, 17, 18, 19]

/-- The running mantissa and shift count after the 19 conditional multiplications (R166). -/
def power (c : Config) (magnitude : Nat) : Nat × Nat :=
  multiplierPositions.foldl (powerStep c magnitude) (powerStart c magnitude)

/-- The reciprocal step, `(2^256 - man) div man + 1` (R165). -/
def reciprocal (man : Nat) : Nat := (2 ^ 256 - man) / man + 1

/-- `rft(t)`, the exponentiation pipeline (R166). -/
def rft (c : Config) (t : Int) : Ratio :=
  if 0 < t then normalizeRatio (reciprocal (power c t.natAbs).1) (128 - (power c t.natAbs).2)
  else normalizeRatio (power c t.natAbs).1 (128 + (power c t.natAbs).2)

/-- Whether the `k`-th tick, counted from `MIN_TICK` as the first, is in range and its ratio at or below `r` (R172). -/
def ratioReached (c : Config) (r : Ratio) (k : Nat) : Bool :=
  decide (k ≤ tickSpan + 1) && (rft c (minTick + k - 1)).le r

/-- The binary search for the greatest `k` that `ratioReached` accepts, from `k` up, one bit at a time: as many
evaluations of `rft` as there are bits (R169, R172, R242). -/
def searchTick (c : Config) (r : Ratio) : (bits : Nat) → (k : Nat) → Nat
  | 0, k => k
  | bits + 1, k => searchTick c r bits (if ratioReached c r (k + 2 ^ bits) then k + 2 ^ bits else k)

/-- The tick that the search's count stands for: the `k`-th from `MIN_TICK`, and none for the count 0
(spec/93_implementation_defined.md I17). -/
def tickOfCount : Nat → Eval Int
  | 0 => .error .outsideDomain
  | places + 1 => .ok (minTick + places)

/-- `tfnr(m, e)`, for a pair inside `[MIN_RATIO, MAX_RATIO]`: the greatest tick whose ratio does not exceed the pair
(R172). For such a pair no tick is found only under a constant store without `rft(MIN_TICK) <= MIN_RATIO`, which breaks
R10 and has no meaning (R172; spec/93_implementation_defined.md I17); no command calls it on a pair outside the range
(`tickOfRatio`, `tickOfVolumes`). The search is one of the algorithms R172 allows (log entry 5), with the 21 evaluations
of `rft` that R242 counts. -/
def tfnr (c : Config) (r : Ratio) : Eval Int := tickOfCount (searchTick c r 21 0)

/-- One squaring of the logarithm pipeline: the next bit of the logarithm, on `L` and the running mantissa (R173). -/
def logStep (acc : Int × Nat) (k : Nat) : Int × Nat :=
  let sq := acc.2 * acc.2 / 2 ^ 127
  (acc.1 + (sq / 2 ^ 128 : Nat) * 2 ^ k, sq / 2 ^ (sq / 2 ^ 128))

/-- `L`: the base-2 logarithm of the ratio, scaled by `2^13` (R173). -/
def logDigits (r : Ratio) : Int :=
  ([12, 11, 10, 9, 8, 7, 6, 5, 4, 3, 2, 1, 0].foldl logStep ((127 - r.exponent) * 2 ^ 13, r.mantissa)).1

/-- `tickLow`, the floor toward minus infinity (R173). -/
def tickLow (c : Config) (r : Ratio) : Int := (logDigits r * c.logBp - c.tickErrLow) / 2 ^ 248

/-- `tickHigh`, the floor toward minus infinity (R173). -/
def tickHigh (c : Config) (r : Ratio) : Int := (logDigits r * c.logBp + c.tickErrHigh) / 2 ^ 248

/-- The approximate-log pipeline of R173, another algorithm for `tfnr`; no command of the model runs it, since R172 is
the definition (log entry 5). -/
def tickByLog (c : Config) (r : Ratio) : Int :=
  if tickLow c r = tickHigh c r ∨ r.lt (rft c (tickHigh c r)) then tickLow c r else tickHigh c r

/-- The normalized pair of a mantissa and an exponent operand, or the error of `NORM`, in test order (R162). -/
def normOperands (a b : Word) : Eval Ratio :=
  if uword a = 0 then raise .zeroMantissa
  else if (normalizeRatio (uword a) (uword b)).exponent < 0 then raise .tickTooHigh
  else if wordMax < (normalizeRatio (uword a) (uword b)).exponent then raise .overflow
  else .ok (normalizeRatio (uword a) (uword b))

/-- The tick of a pair, or the error of `TFNR`, in test order (R174). -/
def tickOfRatio (c : Config) (r : Ratio) : Eval Int :=
  if r.lt c.minRatio then raise .tickTooLow
  else if c.maxRatio.lt r then raise .tickTooHigh
  else if !r.normalized then raise .badOperand
  else tfnr c r

/-- The ratio of two amounts that are not zero, inbound divided by outbound, truncated (R176, conflict C6). -/
def volumeRatio (inbound outbound : Nat) : Ratio := normalizeRatio (inbound * 2 ^ 128 / outbound) 128

/-- The tick of two amounts that are not zero (R177). For a ratio outside `[MIN_RATIO, MAX_RATIO]`, which the default
store never gives, no rule states the tick, and it is a free value (DESIGN CHOICE, log entry 19): R172 defines none, and
R76, by which `TFV` would answer the `TickOutOfRange` of `TFNR` on the ratio, does not agree with R177 and R202, by which
it cannot; R76 is on the script notation, which adds nothing to the unit (D25), so R177 and R202 stand. -/
def tickOfVolumes (c : Config) (inbound outbound : Word) : Eval Int :=
  if (volumeRatio (uword inbound) (uword outbound)).lt c.minRatio ∨
      c.maxRatio.lt (volumeRatio (uword inbound) (uword outbound)) then
    .ok (minTick + (c.unstatedTick inbound outbound : Nat))
  else tfnr c (volumeRatio (uword inbound) (uword outbound))

/-- `NORM` (R162). -/
def execNorm (a b : Word) (s : State) : Host.Outcome State Fault Refusal :=
  answer s (do
    let r ← normOperands a b
    return (wordU r.mantissa, wordU r.exponent.toNat))

/-- `RFT` (R167). -/
def execRft (a : Word) (s : State) : Host.Outcome State Fault Refusal :=
  answer s (do
    let t ← tickOperand a
    ratioWords (rft s.config t))

/-- `TFNR` (R174). -/
def execTfnr (a b : Word) (s : State) : Host.Outcome State Fault Refusal :=
  answer s (do
    let t ← tickOfRatio s.config (ratioOperand a b)
    return single (wordS t))

/-- `TFR`: `NORM`, then `TFNR` on its results (R175). -/
def execTfr (a b : Word) (s : State) : Host.Outcome State Fault Refusal :=
  answer s (do
    let r ← normOperands a b
    let t ← tickOfRatio s.config r
    return single (wordS t))

/-- `RFV`: the ceiling test, then the zero amounts in priority order, then the quotient (R176). -/
def execRfv (a b : Word) (s : State) : Host.Outcome State Fault Refusal :=
  answer s (do
    volumeCheck s.config (uword a) (uword b)
    if uword b = 0 then sentinelWords s.config.maxRatio
    else if uword a = 0 then sentinelWords s.config.minRatio
    else ratioWords (volumeRatio (uword a) (uword b)))

/-- `TFV`: the ceiling test, then the zero amounts in priority order, then the tick of the quotient (R177). -/
def execTfv (a b : Word) (s : State) : Host.Outcome State Fault Refusal :=
  answer s (do
    volumeCheck s.config (uword a) (uword b)
    if uword b = 0 then return single (wordS maxTick)
    else if uword a = 0 then return single (wordS minTick)
    else
      let t ← tickOfVolumes s.config a b
      return single (wordS t))

end Sys2Proof.Machine
end

