-- ==== Sys2Proof/Machine/Amount.lean ====
section
/-! DEFINITION. The amount conversions: `IFO`, `IFOUP`, `OFI`, `OFIUP` (spec/44_amount_conversion.md R190 to R194). -/

namespace Sys2Proof.Machine

/-- `m * amt` for the ratio of tick `t`, by the checked multiply, with the ratio's exponent (R190). -/
def ratioProduct (c : Config) (t : Int) (amount : Nat) : Eval (Nat × Nat) := do
  let r ← legalRatio (rft c t)
  let p ← checkedUnsigned (r.mantissa * amount)
  return (p, r.exponent.toNat)

/-- `apply_ratio(t, amt, up)` (R190). -/
def applyRatio (c : Config) (t : Int) (amount : Nat) (up : Bool) : Eval Nat := do
  let p ← ratioProduct c t amount
  return if up then ceilShift p.1 p.2 else p.1 / 2 ^ p.2

/-- `IFO`, rounding down (R191). -/
def execIfo (a b : Word) (s : State) : Host.Outcome State Fault Refusal :=
  answer s (do
    let t ← tickOperand a
    let q ← applyRatio s.config t (uword b) false
    return single (wordU q))

/-- `IFOUP`, rounding up (R192). -/
def execIfoup (a b : Word) (s : State) : Host.Outcome State Fault Refusal :=
  answer s (do
    let t ← tickOperand a
    let q ← applyRatio s.config t (uword b) true
    return single (wordU q))

/-- `OFI`, rounding down: the tick is tested as presented and negated afterwards (R193). -/
def execOfi (a b : Word) (s : State) : Host.Outcome State Fault Refusal :=
  answer s (do
    let t ← tickOperand a
    let q ← applyRatio s.config (-t) (uword b) false
    return single (wordU q))

/-- `OFIUP`, rounding up: the tick is tested as presented and negated afterwards (R194). -/
def execOfiup (a b : Word) (s : State) : Host.Outcome State Fault Refusal :=
  answer s (do
    let t ← tickOperand a
    let q ← applyRatio s.config (-t) (uword b) true
    return single (wordU q))

end Sys2Proof.Machine
end

