-- ==== Sys2Proof/Machine/Checked.lean ====
section
/-! DEFINITION. The checked family: the exact result over the integers, then the range test of Flags.lean
(spec/40_word_arith.md R106 to R112). -/

namespace Sys2Proof.Machine

/-- The result words of a checked unsigned operation whose exact result is `t` (R106). -/
def unsignedResult (t : Int) : Eval (Word × Word) := do
  let v ← checkedUnsigned t
  return single (wordU v)

/-- The result words of a checked signed operation whose exact result is `t` (R106). -/
def signedResult (t : Int) : Eval (Word × Word) := do
  let v ← checkedSigned t
  return single (wordS v)

/-- `ADDU` (R107). -/
def execAddu (a b : Word) (s : State) : Host.Outcome State Fault Refusal :=
  answer s (unsignedResult (uword a + uword b))

/-- `SUBU` (R108). -/
def execSubu (a b : Word) (s : State) : Host.Outcome State Fault Refusal :=
  answer s (unsignedResult (uword a - uword b))

/-- `MULU` (R109). -/
def execMulu (a b : Word) (s : State) : Host.Outcome State Fault Refusal :=
  answer s (unsignedResult (uword a * uword b))

/-- `ADDS` (R110). -/
def execAdds (a b : Word) (s : State) : Host.Outcome State Fault Refusal :=
  answer s (signedResult (sword a + sword b))

/-- `SUBS` (R111). -/
def execSubs (a b : Word) (s : State) : Host.Outcome State Fault Refusal :=
  answer s (signedResult (sword a - sword b))

/-- `MULS` (R112). -/
def execMuls (a b : Word) (s : State) : Host.Outcome State Fault Refusal :=
  answer s (signedResult (sword a * sword b))

end Sys2Proof.Machine
end

