-- ==== Sys2Proof/Machine/Wrapping.lean ====
section
/-! DEFINITION. The wrapping family: `SHL`, `SHR`, `NOT`, `AND`, `OR`, which never raise (spec/40_word_arith.md R100 to R105). -/

namespace Sys2Proof.Machine

/-- `SHL`: the whole shift amount counts, and 256 or more gives 0 (R101). -/
def execShl (a b : Word) (s : State) : Host.Outcome State Fault Refusal :=
  answer s (.ok (single (if 256 ≤ uword a then 0 else wordU (uword b * 2 ^ uword a))))

/-- `SHR`: logical, and 256 or more gives 0 (R102). -/
def execShr (a b : Word) (s : State) : Host.Outcome State Fault Refusal :=
  answer s (.ok (single (if 256 ≤ uword a then 0 else wordU (uword b / 2 ^ uword a))))

/-- `NOT`: all 256 bits inverted (R103). -/
def execNot (a : Word) (s : State) : Host.Outcome State Fault Refusal :=
  answer s (.ok (single (wordU (2 ^ 256 - 1 - uword a))))

/-- `AND`, bit by bit (R104). -/
def execAnd (a b : Word) (s : State) : Host.Outcome State Fault Refusal :=
  answer s (.ok (single (a &&& b)))

/-- `OR`, bit by bit (R105). -/
def execOr (a b : Word) (s : State) : Host.Outcome State Fault Refusal :=
  answer s (.ok (single (a ||| b)))

end Sys2Proof.Machine
end

