-- ==== Sys2Proof/Machine/Dispatch.lean ====
section
/-! DEFINITION. One arm for each command of the opcode map (spec/30_encoding.md R64). -/

namespace Sys2Proof.Machine

def exec (i : Instr) (s : State) : Host.Outcome State Fault Refusal :=
  match i with
  | .shl a b => Sys2Proof.Machine.execShl a b s
  | .shr a b => Sys2Proof.Machine.execShr a b s
  | .not a => Sys2Proof.Machine.execNot a s
  | .and a b => Sys2Proof.Machine.execAnd a b s
  | .or a b => Sys2Proof.Machine.execOr a b s
  | .addu a b => Sys2Proof.Machine.execAddu a b s
  | .subu a b => Sys2Proof.Machine.execSubu a b s
  | .mulu a b => Sys2Proof.Machine.execMulu a b s
  | .adds a b => Sys2Proof.Machine.execAdds a b s
  | .subs a b => Sys2Proof.Machine.execSubs a b s
  | .muls a b => Sys2Proof.Machine.execMuls a b s
  | .ctz64 a => Sys2Proof.Machine.execCtz64 a s
  | .fls a => Sys2Proof.Machine.execFls a s
  | .dfrom a => Sys2Proof.Machine.execDfrom a s
  | .dto a => Sys2Proof.Machine.execDto a s
  | .dmul a b => Sys2Proof.Machine.execDmul a b s
  | .dmulup a b => Sys2Proof.Machine.execDmulup a b s
  | .norm a b => Sys2Proof.Machine.execNorm a b s
  | .rft a => Sys2Proof.Machine.execRft a s
  | .tfnr a b => Sys2Proof.Machine.execTfnr a b s
  | .tfr a b => Sys2Proof.Machine.execTfr a b s
  | .rfv a b => Sys2Proof.Machine.execRfv a b s
  | .tfv a b => Sys2Proof.Machine.execTfv a b s
  | .ifo a b => Sys2Proof.Machine.execIfo a b s
  | .ifoup a b => Sys2Proof.Machine.execIfoup a b s
  | .ofi a b => Sys2Proof.Machine.execOfi a b s
  | .ofiup a b => Sys2Proof.Machine.execOfiup a b s

end Sys2Proof.Machine
end

