-- ==== Sys2Proof/Machine/Step.lean ====
section
/-! DEFINITION. One transaction is one step (spec/30_encoding.md R60; spec/20_memory.md R47). -/

namespace Sys2Proof.Machine

/-- One step: with a request on the port the unit accepts it, decodes it, computes, and presents the response; an
unassigned opcode is answered with `IllegalOp` whatever the operands hold (R66, R203). With no request "the unit does
nothing between transactions" (R60). -/
def step (s : State) : Host.Outcome State Fault Refusal :=
  match s.request with
  | none => .next s
  | some r =>
    match decode r with
    | .ok i => exec i s.accept
    | .error _ => .next (s.accept.takeError .illegalOp)

/-- `s` with the command of a word numbered as the opcode table numbers it presented on the request port, which is
where `step` takes its next command from (log entry 6). -/
def State.withFetchWord (s : State) (nbits w : Nat) : State := s.present (tableRequest nbits w)

end Sys2Proof.Machine
end

