-- ==== Sys2Proof/Laws/PerInstr.lean ====
section
/-! SUPPORT. Statements made for every command, one lemma for each constructor of `Instr`. -/

namespace Sys2Proof

/-- The integer of a request laid out from its three fields (R61). -/
theorem Request.make_toNat (op : BitVec 8) (a b : Word) :
    (Request.make op a b).toNat = op.toNat * 2 ^ 512 + a.toNat * 2 ^ 256 + b.toNat := by
  rw [Request.make, BitVec.toNat_ofNat, Nat.mod_eq_of_lt]
  have := op.isLt; have := a.isLt; have := b.isLt
  omega

@[simp] theorem Request.op_make (op : BitVec 8) (a b : Word) : (Request.make op a b).op = op := by
  apply BitVec.eq_of_toNat_eq
  have := op.isLt; have := a.isLt; have := b.isLt
  rw [Request.op, BitVec.extractLsb'_toNat, Request.make_toNat, Nat.shiftRight_eq_div_pow]
  omega

@[simp] theorem Request.a_make (op : BitVec 8) (a b : Word) : (Request.make op a b).a = a := by
  apply BitVec.eq_of_toNat_eq
  have := op.isLt; have := a.isLt; have := b.isLt
  rw [Request.a, BitVec.extractLsb'_toNat, Request.make_toNat, Nat.shiftRight_eq_div_pow]
  omega

@[simp] theorem Request.b_make (op : BitVec 8) (a b : Word) : (Request.make op a b).b = b := by
  apply BitVec.eq_of_toNat_eq
  have := op.isLt; have := a.isLt; have := b.isLt
  rw [Request.b, BitVec.extractLsb'_toNat, Request.make_toNat, Nat.shiftRight_eq_div_pow]
  omega

/-- What the decoder reads from a request laid out from its three fields. -/
@[simp] theorem decode_make (op : BitVec 8) (a b : Word) : decode (Request.make op a b) = decodeFields op a b := by
  simp [decode]

namespace Laws.RoundTrip

/-- Decoding the encoding of a well-formed command gives it back, with every operand at every value. -/
def Statement (i : Instr) : Prop := i.wellFormed = true → decode (encode i) = .ok i

theorem shl (a b : Word) : Statement (.shl a b) := fun _ => decode_make _ _ _
theorem shr (a b : Word) : Statement (.shr a b) := fun _ => decode_make _ _ _
theorem not (a : Word) : Statement (.not a) := fun _ => decode_make _ _ _
theorem and (a b : Word) : Statement (.and a b) := fun _ => decode_make _ _ _
theorem or (a b : Word) : Statement (.or a b) := fun _ => decode_make _ _ _
theorem addu (a b : Word) : Statement (.addu a b) := fun _ => decode_make _ _ _
theorem subu (a b : Word) : Statement (.subu a b) := fun _ => decode_make _ _ _
theorem mulu (a b : Word) : Statement (.mulu a b) := fun _ => decode_make _ _ _
theorem adds (a b : Word) : Statement (.adds a b) := fun _ => decode_make _ _ _
theorem subs (a b : Word) : Statement (.subs a b) := fun _ => decode_make _ _ _
theorem muls (a b : Word) : Statement (.muls a b) := fun _ => decode_make _ _ _
theorem ctz64 (a : Word) : Statement (.ctz64 a) := fun _ => decode_make _ _ _
theorem fls (a : Word) : Statement (.fls a) := fun _ => decode_make _ _ _
theorem dfrom (a : Word) : Statement (.dfrom a) := fun _ => decode_make _ _ _
theorem dto (a : Word) : Statement (.dto a) := fun _ => decode_make _ _ _
theorem dmul (a b : Word) : Statement (.dmul a b) := fun _ => decode_make _ _ _
theorem dmulup (a b : Word) : Statement (.dmulup a b) := fun _ => decode_make _ _ _
theorem norm (a b : Word) : Statement (.norm a b) := fun _ => decode_make _ _ _
theorem rft (a : Word) : Statement (.rft a) := fun _ => decode_make _ _ _
theorem tfnr (a b : Word) : Statement (.tfnr a b) := fun _ => decode_make _ _ _
theorem tfr (a b : Word) : Statement (.tfr a b) := fun _ => decode_make _ _ _
theorem rfv (a b : Word) : Statement (.rfv a b) := fun _ => decode_make _ _ _
theorem tfv (a b : Word) : Statement (.tfv a b) := fun _ => decode_make _ _ _
theorem ifo (a b : Word) : Statement (.ifo a b) := fun _ => decode_make _ _ _
theorem ifoup (a b : Word) : Statement (.ifoup a b) := fun _ => decode_make _ _ _
theorem ofi (a b : Word) : Statement (.ofi a b) := fun _ => decode_make _ _ _
theorem ofiup (a b : Word) : Statement (.ofiup a b) := fun _ => decode_make _ _ _

end Laws.RoundTrip

end Sys2Proof
end

