-- ==== Sys2Proof/Machine/Script.lean ====
section
/-! DEFINITION. The host's script notation and its pseudo-commands (spec/30_encoding.md R75, R76): straight-line lists of
commands sent one transaction at a time. It is host-side bookkeeping; the unit knows nothing of it. -/

namespace Sys2Proof.Machine

/-- An operand of a script line: a literal word, or an earlier result by its place among the bound words (R75). -/
inductive ScriptOperand where
  | literal (w : Word)
  | name (place : Nat)
deriving DecidableEq, Repr

/-- One script line: an opcode and two operands; an omitted operand is the literal 0 (R75). -/
structure ScriptLine where
  op : BitVec 8
  a : ScriptOperand
  b : ScriptOperand
deriving DecidableEq, Repr

/-- How a script ends, with the words bound so far: line `k` binds its `r0` at place `2k` and its `r1` at `2k + 1`. -/
inductive ScriptOutcome where
  /-- Every line was answered with a result. -/
  | finished (bound : List Word)
  /-- The first error response ends the script, and is its outcome (R75, R211). -/
  | stopped (kind : ErrorKind) (bound : List Word)
  /-- The model gave a line no meaning. -/
  | refused (reason : Refusal)
  /-- A line uses a name that is not bound yet; no such script is in the notation. -/
  | malformed
deriving DecidableEq, Repr

/-- The word of an operand, if it is bound. -/
def ScriptOperand.word (bound : List Word) : ScriptOperand → Option Word
  | .literal w => some w
  | .name place => bound[place]?

/-- The request of a line, if its operands are bound (R61, R75). -/
def ScriptLine.request (bound : List Word) (l : ScriptLine) : Option Request :=
  match l.a.word bound, l.b.word bound with
  | some a, some b => some (Request.make l.op a b)
  | _, _ => none

/-- Runs a script line by line: each sends one request and binds the result words of its response; the first error
stops it (R75, R211). -/
def runScript : List ScriptLine → State → List Word → ScriptOutcome
  | [], _, bound => .finished bound
  | l :: rest, s, bound =>
    match l.request bound with
    | none => .malformed
    | some r =>
      match step (s.present r) with
      | .next t =>
        match t.response with
        | some (.ok r0 r1) => runScript rest t (bound ++ [r0, r1])
        | some (.err kind) => .stopped kind bound
        | none => .malformed
      | .fault f => nomatch f
      | .refused reason => .refused reason

/-- `NEGS x` expands to `SUBS 0, x` (R76). -/
def negsScript (x : Word) : List ScriptLine := [⟨0x19, .literal 0, .literal x⟩]

/-- `BIN t, spacing` expands to `MULS t, spacing` (R76). -/
def binScript (t spacing : Word) : List ScriptLine := [⟨0x1A, .literal t, .literal spacing⟩]

/-- `TFR2 m, e` expands to `NORM m, e`, then `TFNR` on its results (R76). -/
def tfr2Script (m e : Word) : List ScriptLine := [⟨0x40, .literal m, .literal e⟩, ⟨0x42, .name 0, .name 1⟩]

/-- `TFV2 i, o` expands to `RFV i, o`, then `TFNR` on its results (R76). Under R76's premise on the
sentinels it answers as `TFV` does, but where `TFNR` answers `TickOutOfRange` on the computed ratio, which never happens
under the default store (log entry 19). -/
def tfv2Script (i o : Word) : List ScriptLine := [⟨0x44, .literal i, .literal o⟩, ⟨0x42, .name 0, .name 1⟩]

end Sys2Proof.Machine
end

