-- ==== Sys2Proof/Safety.lean ====
section
/-! DEFINITION. The terms in which claims speak of the machine: what a transaction answers, the statuses a command may
give (spec/60_exceptions.md R202), sequences of requests (spec/20_memory.md R46, R47), and the constant stores the spec
gives a meaning (spec/00_scope.md R10). -/

namespace Sys2Proof.Machine

/-- The response an outcome leaves on the response port; none if the step stopped. -/
def responseOf (o : Host.Outcome State Fault Refusal) : Option Response :=
  match o with
  | .next s => s.response
  | _ => none

/-- The statuses each command can give, `none` standing for `OK` (R202). -/
def allowedStatuses : Instr → List (Option ErrorKind)
  | .shl _ _ => [none]
  | .shr _ _ => [none]
  | .not _ => [none]
  | .and _ _ => [none]
  | .or _ _ => [none]
  | .ctz64 _ => [none]
  | .fls _ => [none]
  | .addu _ _ => [none, some .overflow]
  | .mulu _ _ => [none, some .overflow]
  | .subu _ _ => [none, some .underflow]
  | .adds _ _ => [none, some .overflow, some .underflow]
  | .subs _ _ => [none, some .overflow, some .underflow]
  | .muls _ _ => [none, some .overflow, some .underflow]
  | .dfrom _ => [none, some .invalidDensity]
  | .dto _ => [none, some .invalidDensity]
  | .dmul _ _ => [none, some .invalidDensity, some .overflow]
  | .dmulup _ _ => [none, some .invalidDensity, some .overflow]
  | .norm _ _ => [none, some .zeroMantissa, some .tickTooHigh, some .overflow]
  | .rft _ => [none, some .tickTooLow, some .tickTooHigh]
  | .tfnr _ _ => [none, some .tickTooLow, some .tickTooHigh, some .badOperand]
  | .tfr _ _ => [none, some .zeroMantissa, some .tickTooLow, some .tickTooHigh, some .overflow]
  | .rfv _ _ => [none, some .volumeTooLarge]
  | .tfv _ _ => [none, some .volumeTooLarge]
  | .ifo _ _ => [none, some .tickTooLow, some .tickTooHigh, some .overflow]
  | .ifoup _ _ => [none, some .tickTooLow, some .tickTooHigh, some .overflow]
  | .ofi _ _ => [none, some .tickTooLow, some .tickTooHigh, some .overflow]
  | .ofiup _ _ => [none, some .tickTooLow, some .tickTooHigh, some .overflow]

/-- The error kind of a response, if it is one. -/
def Response.kind? : Response → Option ErrorKind
  | .ok _ _ => none
  | .err kind => some kind

/-- The opcode values of R64. -/
def assignedOpcodes : List (BitVec 8) :=
  [0x00, 0x01, 0x02, 0x03, 0x04, 0x10, 0x11, 0x12, 0x18, 0x19, 0x1A, 0x20, 0x21, 0x30, 0x31, 0x32, 0x33,
   0x40, 0x41, 0x42, 0x43, 0x44, 0x45, 0x48, 0x49, 0x4A, 0x4B]

/-- The opcode values whose second operand word is ignored: `NOT`, `CTZ64`, `FLS`, `DFROM`, `DTO`, `RFT` (R65, R67). -/
def oneOperandOpcodes : List (BitVec 8) := [0x02, 0x20, 0x21, 0x30, 0x31, 0x41]

/-- One transaction: the host presents a request and the unit takes one step (R60). -/
def transact (s : State) (r : Request) : Host.Outcome State Fault Refusal := step (s.present r)

/-- The responses to a sequence of requests presented one after the other, each transaction starting from the state the
one before it left; none if a transaction stops (R47). -/
def serve : State → List Request → Option (List Response)
  | _, [] => some []
  | s, r :: rest =>
    match transact s r with
    | .next t =>
      match t.response, serve t rest with
      | some answered, some later => some (answered :: later)
      | _, _ => none
    | _ => none

/-- A tick of the legal range (R24 c). -/
def InTickRange (t : Int) : Prop := minTick ≤ t ∧ t ≤ maxTick

/-- The pair lies in `[MIN_RATIO, MAX_RATIO]` under the ratio order (R172). -/
def InRatioRange (c : Config) (r : Ratio) : Prop := r.lt c.minRatio = false ∧ c.maxRatio.lt r = false

/-- What R172 calls the source's floor property: the tick's ratio does not exceed the pair, and the next tick's does. -/
def IsFloorTick (c : Config) (r : Ratio) (t : Int) : Prop :=
  InTickRange t ∧ (rft c t).le r = true ∧ (t = maxTick ∨ r.lt (rft c (t + 1)) = true)

/-- `p` is the index of the leading bit of `x` (R132). -/
def LeadingBit (x p : Nat) : Prop := 2 ^ p ≤ x ∧ x < 2 ^ (p + 1)

/-- A mantissa moved until its leading bit `p` is bit 127 (R161). -/
def mantissaAt127 (m p : Nat) : Nat := if p ≤ 127 then m * 2 ^ (127 - p) else m / 2 ^ (p - 127)

/-- A word that stands for a density: nine bits whose exponent field is not 1 (R26). -/
def CanonicalDensity (d : Nat) : Prop := d < 2 ^ 9 ∧ d / 4 ≠ 1

/-- The 96.32 value of a canonical density (R26). -/
def densityValue (d : Nat) : Nat := if d < 4 then d else (4 + d % 4) * 2 ^ (d / 4 - 2)

/-- The constraints of R10 on which the meaning of the commands rests: those read off the constant store and those that
speak of `rft` (R10, R169, R172). What `Admissible` adds is how well the constants approximate. -/
structure Regular (c : Config) : Prop where
  wellFormed : c.wellFormed = true
  /-- `RFT` is strictly increasing in the tick (R10, R169 a). -/
  increasing : ∀ t : Int, minTick ≤ t → t < maxTick → (rft c t).lt (rft c (t + 1)) = true
  /-- Every `RFT` result is normalized with exponent in `[0, 255]` (R10, R169 b). -/
  legal : ∀ t : Int, InTickRange t → (rft c t).legal = true
  /-- `RFT(MIN_TICK) <= MIN_RATIO` (R10, R172). -/
  minCovered : (rft c minTick).le c.minRatio = true

/-- `POW_TABLE[i]` approximates `1.0001^(-2^i) * 2^(128 + POW_SHIFT[i])` (R10) from below (R164), within a number of units
in the last place that the spec leaves open (log entry 20). -/
def PowApproximates (c : Config) : Prop :=
  ∀ i : Fin 20,
    (c.pow.get i).value * 10001 ^ 2 ^ (i : Nat) ≤ 2 ^ (128 + (c.pow.get i).shift) * 10000 ^ 2 ^ (i : Nat) ∧
      2 ^ (128 + (c.pow.get i).shift) * 10000 ^ 2 ^ (i : Nat) <
        ((c.pow.get i).value + 1 + Config.powTolerance) * 10001 ^ 2 ^ (i : Nat)

/-- `LOG_BP_2X235` approximates `log_1.0001(2) * 2^235` (R10), within a number of units that the spec leaves open
(log entry 20). -/
def LogApproximates (c : Config) : Prop :=
  |(c.logBp : ℝ) - Real.logb (10001 / 10000 : ℝ) 2 * (2 : ℝ) ^ 235| ≤ 1 + (Config.logTolerance : ℝ)

/-- The pipeline agrees with the definition for every valid input (92_eei_decisions.md D18; R172). -/
def PipelineAgrees (c : Config) : Prop :=
  ∀ r : Ratio, r.normalized = true → InRatioRange c r → tfnr c r = .ok (tickByLog c r)

/-- A constant store that meets every constraint of R10, of R172 and of D18. -/
structure Admissible (c : Config) : Prop extends Regular c where
  powApproximates : PowApproximates c
  logApproximates : LogApproximates c
  pipelineAgrees : PipelineAgrees c

/-- What R76 asks of the sentinel ratios: `TFNR(MAX_RATIO) = MAX_TICK` and `TFNR(MIN_RATIO) = MIN_TICK`. -/
def SentinelsAreExtreme (c : Config) : Prop :=
  tickOfRatio c c.maxRatio = .ok maxTick ∧ tickOfRatio c c.minRatio = .ok minTick

/-- The ratio of two amounts, where it is computed, lies in `[MIN_RATIO, MAX_RATIO]`, as R177 supposes. -/
def VolumesInRange (c : Config) (a b : Word) : Prop := a ≠ 0 → b ≠ 0 → InRatioRange c (volumeRatio a.toNat b.toNat)

/-- The part of `Regular` that a step can be seen to keep by evaluation: the constraints read off the store, and
`RFT(MIN_TICK) <= MIN_RATIO` (R10). -/
def State.storeSound (s : State) : Bool := s.config.wellFormed && (rft s.config minTick).le s.config.minRatio

end Sys2Proof.Machine
end

