-- ==== Sys2Proof/Certificates/Slice0/Obligations.lean ====
section
/-! DEFINITION. The statements for the provers. In each statement about a command the next state is written out as
`s.deliver r`: the old state with only the response port written, so the frame (constant store and request port
unchanged) is part of it. -/

open Sys2Proof Sys2Proof.Machine

/-- SHL is the exact product reduced modulo 2^256 (R101). -/
def Obligations.ShlIsProductModuloWord : Prop :=
  ∀ (a b : Word) (s : State),
    decode (Request.make 0x00 a b) = .ok (.shl a b) ∧
      ∃ r : Word, exec (.shl a b) s = .next (s.deliver (.ok r 0)) ∧
        r.toNat = b.toNat * 2 ^ a.toNat % 2 ^ 256 ∧ (256 ≤ a.toNat → r = 0) ∧ (a = 0 → r = b)

/-- SHR is the floor quotient by 2^a, whatever the amount (R102). -/
def Obligations.ShrIsFloorQuotient : Prop :=
  ∀ (a b : Word) (s : State),
    decode (Request.make 0x01 a b) = .ok (.shr a b) ∧
      ∃ r : Word, exec (.shr a b) s = .next (s.deliver (.ok r 0)) ∧
        r.toNat = b.toNat / 2 ^ a.toNat ∧ (256 ≤ a.toNat → r = 0) ∧ (a ≠ 0 → r.getLsbD 255 = false)

/-- NOT inverts all 256 bits and ignores operand b (R103). -/
def Obligations.NotInvertsAllBits : Prop :=
  ∀ (a b : Word) (s : State),
    decode (Request.make 0x02 a b) = .ok (.not a) ∧
      ∃ r : Word, exec (.not a) s = .next (s.deliver (.ok r 0)) ∧
        r.toNat = 2 ^ 256 - 1 - a.toNat ∧ (∀ i < 256, r.getLsbD i = !a.getLsbD i) ∧ r.toInt = -a.toInt - 1

/-- AND and OR combine the operands bit by bit (R104, R105). -/
def Obligations.AndOrActBitByBit : Prop :=
  ∀ (a b : Word) (s : State),
    (decode (Request.make 0x03 a b) = .ok (.and a b) ∧
      ∃ r : Word, exec (.and a b) s = .next (s.deliver (.ok r 0)) ∧
        ∀ i < 256, r.getLsbD i = (a.getLsbD i && b.getLsbD i)) ∧
    (decode (Request.make 0x04 a b) = .ok (.or a b) ∧
      ∃ r : Word, exec (.or a b) s = .next (s.deliver (.ok r 0)) ∧
        ∀ i < 256, r.getLsbD i = (a.getLsbD i || b.getLsbD i))

/-- ADDU answers the exact sum, or Overflow when it leaves the word (R107). -/
def Obligations.AdduIsExactOrOverflows : Prop :=
  ∀ (a b : Word) (s : State),
    decode (Request.make 0x10 a b) = .ok (.addu a b) ∧
    (a.toNat + b.toNat < 2 ^ 256 → ∃ r : Word, exec (.addu a b) s = .next (s.deliver (.ok r 0)) ∧ r.toNat = a.toNat + b.toNat) ∧
    (2 ^ 256 ≤ a.toNat + b.toNat → exec (.addu a b) s = .next (s.deliver (.err .overflow)))

/-- SUBU answers the exact difference, or Underflow when it is negative (R108). -/
def Obligations.SubuIsExactOrUnderflows : Prop :=
  ∀ (a b : Word) (s : State),
    decode (Request.make 0x11 a b) = .ok (.subu a b) ∧
    (b.toNat ≤ a.toNat → ∃ r : Word, exec (.subu a b) s = .next (s.deliver (.ok r 0)) ∧ r.toNat = a.toNat - b.toNat) ∧
    (a.toNat < b.toNat → exec (.subu a b) s = .next (s.deliver (.err .underflow)))

/-- MULU answers the exact product, or Overflow when it leaves the word (R109). -/
def Obligations.MuluIsExactOrOverflows : Prop :=
  ∀ (a b : Word) (s : State),
    decode (Request.make 0x12 a b) = .ok (.mulu a b) ∧
    (a.toNat * b.toNat < 2 ^ 256 → ∃ r : Word, exec (.mulu a b) s = .next (s.deliver (.ok r 0)) ∧ r.toNat = a.toNat * b.toNat) ∧
    (2 ^ 256 ≤ a.toNat * b.toNat → exec (.mulu a b) s = .next (s.deliver (.err .overflow)))

/-- ADDS answers the exact signed sum, or Overflow above and Underflow below the range (R110). -/
def Obligations.AddsIsExactOrLeavesTheRange : Prop :=
  ∀ (a b : Word) (s : State),
    decode (Request.make 0x18 a b) = .ok (.adds a b) ∧
    (-2 ^ 255 ≤ a.toInt + b.toInt → a.toInt + b.toInt < 2 ^ 255 → ∃ r : Word, exec (.adds a b) s = .next (s.deliver (.ok r 0)) ∧ r.toInt = a.toInt + b.toInt) ∧
    (2 ^ 255 ≤ a.toInt + b.toInt → exec (.adds a b) s = .next (s.deliver (.err .overflow))) ∧
    (a.toInt + b.toInt < -2 ^ 255 → exec (.adds a b) s = .next (s.deliver (.err .underflow)))

/-- SUBS answers the exact signed difference, or Overflow above and Underflow below the range (R111). -/
def Obligations.SubsIsExactOrLeavesTheRange : Prop :=
  ∀ (a b : Word) (s : State),
    decode (Request.make 0x19 a b) = .ok (.subs a b) ∧
    (-2 ^ 255 ≤ a.toInt - b.toInt → a.toInt - b.toInt < 2 ^ 255 → ∃ r : Word, exec (.subs a b) s = .next (s.deliver (.ok r 0)) ∧ r.toInt = a.toInt - b.toInt) ∧
    (2 ^ 255 ≤ a.toInt - b.toInt → exec (.subs a b) s = .next (s.deliver (.err .overflow))) ∧
    (a.toInt - b.toInt < -2 ^ 255 → exec (.subs a b) s = .next (s.deliver (.err .underflow)))

/-- MULS answers the exact signed product, or Overflow above and Underflow below the range (R112). -/
def Obligations.MulsIsExactOrLeavesTheRange : Prop :=
  ∀ (a b : Word) (s : State),
    decode (Request.make 0x1A a b) = .ok (.muls a b) ∧
    (-2 ^ 255 ≤ a.toInt * b.toInt → a.toInt * b.toInt < 2 ^ 255 → ∃ r : Word, exec (.muls a b) s = .next (s.deliver (.ok r 0)) ∧ r.toInt = a.toInt * b.toInt) ∧
    (2 ^ 255 ≤ a.toInt * b.toInt → exec (.muls a b) s = .next (s.deliver (.err .overflow))) ∧
    (a.toInt * b.toInt < -2 ^ 255 → exec (.muls a b) s = .next (s.deliver (.err .underflow)))

/-- The relations between the wrapping and the checked family (R114). -/
def Obligations.WrappingAndCheckedFamiliesAgree : Prop :=
  ∀ (x y n : Word) (s : State),
    (exec (.addu x y) s = .next (s.deliver (.ok (x + y) 0)) ∨
      exec (.addu x y) s = .next (s.deliver (.err .overflow)) ∧ (x + y).toNat < x.toNat) ∧
    ((∃ k, exec (.subs 0 x) s = .next (s.deliver (.err k))) ↔ x.toInt = -2 ^ 255) ∧
    (n.toNat < 256 → x.toNat * 2 ^ n.toNat < 2 ^ 256 →
      exec (.shl n x) s = exec (.mulu x (wordU (2 ^ n.toNat))) s) ∧
    (n.toNat < 256 → exec (.shr n x) s = .next (s.deliver (.ok (wordU (x.toNat / 2 ^ n.toNat)) 0))) ∧
    exec (.not x) s = exec (.subu (wordU (2 ^ 256 - 1)) x) s

/-- CTZ64 is the least set bit of the low 64 bits, 64 if none (R134). -/
def Obligations.CtzIsLeastSetBitOfLowHalf : Prop :=
  ∀ (a b : Word) (s : State),
    decode (Request.make 0x20 a b) = .ok (.ctz64 a) ∧
      ∃ r : Word, exec (.ctz64 a) s = .next (s.deliver (.ok r 0)) ∧ r.toNat ≤ 64 ∧
        (∀ i < r.toNat, a.getLsbD i = false) ∧ (r.toNat < 64 → a.getLsbD r.toNat = true)

/-- FLS is the index of the greatest set bit, 256 for zero (R135). -/
def Obligations.FlsIsGreatestSetBit : Prop :=
  ∀ (a b : Word) (s : State),
    decode (Request.make 0x21 a b) = .ok (.fls a) ∧
      ∃ r : Word, exec (.fls a) s = .next (s.deliver (.ok r 0)) ∧ (a = 0 → r = 256) ∧
        (a ≠ 0 → LeadingBit a.toNat r.toNat ∧ a.getLsbD r.toNat = true ∧ ∀ i, r.toNat < i → a.getLsbD i = false)

/-- The bisection forms of ctz64 and fls equal the functions (R131, R133). -/
def Obligations.BisectionFormsMeetTheContract : Prop :=
  ∀ x : Nat, x < 2 ^ 256 → ctz64Bisection x = ctz64 x ∧ flsBisection x = fls x

/-- DFROM encodes a 128-bit 96.32 value and rejects a larger one (R142). -/
def Obligations.DfromEncodesOrRejects : Prop :=
  ∀ (a b : Word) (s : State),
    decode (Request.make 0x30 a b) = .ok (.dfrom a) ∧
    (2 ^ 128 ≤ a.toNat → exec (.dfrom a) s = .next (s.deliver (.err .invalidDensity))) ∧
    (a.toNat < 2 ^ 128 → ∃ r : Word, exec (.dfrom a) s = .next (s.deliver (.ok r 0)) ∧
      CanonicalDensity r.toNat ∧ (a.toNat ≤ 3 → r = a) ∧
      ∀ p, LeadingBit a.toNat p → 4 ≤ a.toNat → r.toNat = p * 4 + a.toNat / 2 ^ (p - 2) % 4)

/-- DTO decodes a canonical density and rejects every other word (R144). -/
def Obligations.DtoDecodesOrRejects : Prop :=
  ∀ (a b : Word) (s : State),
    decode (Request.make 0x31 a b) = .ok (.dto a) ∧
    (CanonicalDensity a.toNat →
      ∃ r : Word, exec (.dto a) s = .next (s.deliver (.ok r 0)) ∧ r.toNat = densityValue a.toNat) ∧
    (¬ CanonicalDensity a.toNat → exec (.dto a) s = .next (s.deliver (.err .invalidDensity)))

/-- DMUL: the density's value times the volume over 2^32, rounded down (R145). -/
def Obligations.DmulIsFloorOfProduct : Prop :=
  ∀ (a b : Word) (s : State),
    decode (Request.make 0x32 a b) = .ok (.dmul a b) ∧
    (¬ CanonicalDensity a.toNat → exec (.dmul a b) s = .next (s.deliver (.err .invalidDensity))) ∧
    (CanonicalDensity a.toNat → 2 ^ 256 ≤ densityValue a.toNat * b.toNat →
      exec (.dmul a b) s = .next (s.deliver (.err .overflow))) ∧
    (CanonicalDensity a.toNat → densityValue a.toNat * b.toNat < 2 ^ 256 →
      ∃ r : Word, exec (.dmul a b) s = .next (s.deliver (.ok r 0)) ∧
        r.toNat = densityValue a.toNat * b.toNat / 2 ^ 32)

/-- DMULUP: the density's value times the volume over 2^32, rounded up (R146). -/
def Obligations.DmulupIsCeilingOfProduct : Prop :=
  ∀ (a b : Word) (s : State),
    decode (Request.make 0x33 a b) = .ok (.dmulup a b) ∧
    (¬ CanonicalDensity a.toNat → exec (.dmulup a b) s = .next (s.deliver (.err .invalidDensity))) ∧
    (CanonicalDensity a.toNat → 2 ^ 256 ≤ densityValue a.toNat * b.toNat →
      exec (.dmulup a b) s = .next (s.deliver (.err .overflow))) ∧
    (CanonicalDensity a.toNat → densityValue a.toNat * b.toNat < 2 ^ 256 →
      ∃ r : Word, exec (.dmulup a b) s = .next (s.deliver (.ok r 0)) ∧
        r.toNat = (densityValue a.toNat * b.toNat + (2 ^ 32 - 1)) / 2 ^ 32)

/-- Encoding then decoding a 96.32 value loses at most 20 percent and never rounds up (R147). -/
def Obligations.DensityRoundTripLosesAtMostAFifth : Prop :=
  ∀ (x : Word) (s : State), x.toNat < 2 ^ 128 →
    ∃ d y : Word, exec (.dfrom x) s = .next (s.deliver (.ok d 0)) ∧ exec (.dto d) s = .next (s.deliver (.ok y 0)) ∧
      y.toNat ≤ x.toNat ∧ 4 * x.toNat ≤ 5 * y.toNat

/-- DTO then DFROM returns every canonical density, and both directions are monotone (R143, R147). -/
def Obligations.DensityCodecIsMonotoneAndFaithful : Prop :=
  ∀ (d d' x x' : Word) (s : State),
    (CanonicalDensity d.toNat → ∃ y : Word,
      exec (.dto d) s = .next (s.deliver (.ok y 0)) ∧ exec (.dfrom y) s = .next (s.deliver (.ok d 0))) ∧
    (CanonicalDensity d.toNat → CanonicalDensity d'.toNat → d.toNat < d'.toNat → ∃ y y' : Word,
      exec (.dto d) s = .next (s.deliver (.ok y 0)) ∧ exec (.dto d') s = .next (s.deliver (.ok y' 0)) ∧
        y.toNat < y'.toNat) ∧
    (x.toNat ≤ x'.toNat → x'.toNat < 2 ^ 128 → ∃ e e' : Word,
      exec (.dfrom x) s = .next (s.deliver (.ok e 0)) ∧ exec (.dfrom x') s = .next (s.deliver (.ok e' 0)) ∧
        e.toNat ≤ e'.toNat)

/-- DMULUP and DMUL fail together, and differ by 0 or 1 when they succeed (R147). -/
def Obligations.DmulupExceedsDmulByAtMostOne : Prop :=
  ∀ (a b : Word) (s : State),
    (∃ k, exec (.dmul a b) s = .next (s.deliver (.err k)) ∧ exec (.dmulup a b) s = .next (s.deliver (.err k))) ∨
    (∃ q q' : Word, exec (.dmul a b) s = .next (s.deliver (.ok q 0)) ∧
      exec (.dmulup a b) s = .next (s.deliver (.ok q' 0)) ∧ (q' = q ∨ q'.toNat = q.toNat + 1))

/-- NORM normalizes the pair, or raises ZeroMantissa, tooHigh or Overflow in that order (R162). -/
def Obligations.NormNormalizesOrFailsInOrder : Prop :=
  ∀ (a b : Word) (s : State),
    decode (Request.make 0x40 a b) = .ok (.norm a b) ∧
    (a = 0 → exec (.norm a b) s = .next (s.deliver (.err .zeroMantissa))) ∧
    ∀ p, LeadingBit a.toNat p →
      ((b.toNat : Int) + 127 - p < 0 → exec (.norm a b) s = .next (s.deliver (.err .tickTooHigh))) ∧
      (2 ^ 256 ≤ (b.toNat : Int) + 127 - p → exec (.norm a b) s = .next (s.deliver (.err .overflow))) ∧
      (0 ≤ (b.toNat : Int) + 127 - p → (b.toNat : Int) + 127 - p < 2 ^ 256 →
        ∃ m e : Word, exec (.norm a b) s = .next (s.deliver (.ok m e)) ∧
          m.toNat = mantissaAt127 a.toNat p ∧ (e.toNat : Int) = (b.toNat : Int) + 127 - p ∧
          2 ^ 127 ≤ m.toNat ∧ m.toNat < 2 ^ 128 ∧ (p = 127 → m = a ∧ e = b))

/-- The reciprocal step is floor(2^256 / man) (R165). -/
def Obligations.ReciprocalStepIsFloorOfReciprocal : Prop :=
  ∀ man : Nat, 1 ≤ man → man < 2 ^ 256 → reciprocal man = 2 ^ 256 / man

/-- RFT answers the ratio of a tick in range, and tooLow or tooHigh otherwise. The premise that the ratio is legal is
what R10 requires of the store; `DefaultRatiosAreLegalAndIncreasing` says the default meets it at every tick (R166,
R167, R10). -/
def Obligations.RftAnswersTheRatioOfTheTick : Prop :=
  ∀ (a b : Word) (s : State),
    decode (Request.make 0x41 a b) = .ok (.rft a) ∧
    (a.toInt < -887272 → exec (.rft a) s = .next (s.deliver (.err .tickTooLow))) ∧
    (887272 < a.toInt → exec (.rft a) s = .next (s.deliver (.err .tickTooHigh))) ∧
    (InTickRange a.toInt → (rft s.config a.toInt).legal = true →
      ∃ m e : Word, exec (.rft a) s = .next (s.deliver (.ok m e)) ∧
        m.toNat = (rft s.config a.toInt).mantissa ∧ (e.toNat : Int) = (rft s.config a.toInt).exponent ∧
        2 ^ 127 ≤ m.toNat ∧ m.toNat < 2 ^ 128 ∧ e.toNat ≤ 255)

/-- In the default store rft is strictly increasing, normalized, and 1 at tick 0 (R169). -/
def Obligations.DefaultRatiosAreLegalAndIncreasing : Prop :=
  (∀ t : Int, minTick ≤ t → t < maxTick → (rft Config.default t).lt (rft Config.default (t + 1)) = true) ∧
    (∀ t : Int, InTickRange t → (rft Config.default t).legal = true) ∧
    rft Config.default 0 = ⟨2 ^ 127, 127⟩

/-- In the default store rft(n) and rft(-n) approximate 1.0001^n and 1.0001^-n within one part in 2^100 (R164, R165,
R25, R28). -/
def Obligations.DefaultRatiosApproximatePowers : Prop :=
  ∀ n : Nat, n ≤ 887272 →
    (rft Config.default (-(n : Int))).mantissa * 10001 ^ n ≤
      10000 ^ n * 2 ^ (rft Config.default (-(n : Int))).exponent.toNat ∧
    (2 ^ 100 - 1) * (10000 ^ n * 2 ^ (rft Config.default (-(n : Int))).exponent.toNat) ≤
      2 ^ 100 * ((rft Config.default (-(n : Int))).mantissa * 10001 ^ n) ∧
    (2 ^ 100 - 1) * (10001 ^ n * 2 ^ (rft Config.default (n : Int)).exponent.toNat) ≤
      2 ^ 100 * ((rft Config.default (n : Int)).mantissa * 10000 ^ n) ∧
    2 ^ 100 * ((rft Config.default (n : Int)).mantissa * 10000 ^ n) ≤
      (2 ^ 100 + 1) * (10001 ^ n * 2 ^ (rft Config.default (n : Int)).exponent.toNat)

/-- Each default power table entry is the floor of R28 with the least shift, and approximates what R10 asks (R28, R10,
R164). That the tolerance of R10 is a free value of at least one unit is the model's choice (log entry 20). -/
def Obligations.DefaultPowerTableIsItsFormula : Prop :=
  (∀ i : Fin 20,
    (Config.default.pow.get i).value =
      2 ^ (128 + (Config.default.pow.get i).shift) * 10000 ^ 2 ^ (i : Nat) / 10001 ^ 2 ^ (i : Nat) ∧
    2 ^ 127 ≤ (Config.default.pow.get i).value ∧
    ((Config.default.pow.get i).shift = 0 ∨
      2 ^ (128 + (Config.default.pow.get i).shift - 1) * 10000 ^ 2 ^ (i : Nat) / 10001 ^ 2 ^ (i : Nat) < 2 ^ 127)) ∧
  PowApproximates Config.default

/-- The default sentinels are the ratios of the extreme ticks, and the default store meets the readable constraints
(R31, R10). -/
def Obligations.DefaultSentinelsAreExtremeRatios : Prop :=
  rft Config.default minTick = Config.default.minRatio ∧ rft Config.default maxTick = Config.default.maxRatio ∧
    Config.default.minRatio = ⟨170153974464283981435225617938057077692, 255⟩ ∧
    Config.default.maxRatio = ⟨340256786836388094050805785052946541084, 0⟩ ∧
    Config.default.wellFormed = true

/-- TFNR answers a tick with the floor property, or tooLow, tooHigh or BadOperand in that order (R172, R174). -/
def Obligations.TfnrIsTheFloorTickOrFailsInOrder : Prop :=
  ∀ (a b : Word) (s : State) (r : Ratio), r = ⟨a.toNat, b.toNat⟩ →
    decode (Request.make 0x42 a b) = .ok (.tfnr a b) ∧
    (r.lt s.config.minRatio = true → exec (.tfnr a b) s = .next (s.deliver (.err .tickTooLow))) ∧
    (r.lt s.config.minRatio = false → s.config.maxRatio.lt r = true →
      exec (.tfnr a b) s = .next (s.deliver (.err .tickTooHigh))) ∧
    (InRatioRange s.config r → (a.toNat < 2 ^ 127 ∨ 2 ^ 128 ≤ a.toNat) →
      exec (.tfnr a b) s = .next (s.deliver (.err .badOperand))) ∧
    (InRatioRange s.config r → 2 ^ 127 ≤ a.toNat → a.toNat < 2 ^ 128 →
      (rft s.config minTick).le s.config.minRatio = true →
      ∃ t : Int, exec (.tfnr a b) s = .next (s.deliver (.ok (wordS t) 0)) ∧ IsFloorTick s.config r t)

/-- TFNR is the greatest tick whose ratio does not exceed the pair, in every store that meets R10 (R172, R10). -/
def Obligations.TfnrIsTheGreatestTick : Prop :=
  ∀ (a b : Word) (s : State) (r : Ratio), r = ⟨a.toNat, b.toNat⟩ → (s.config = Config.default ∨ Regular s.config) →
    r.normalized = true → InRatioRange s.config r →
    ∃ t : Int, InTickRange t ∧ exec (.tfnr a b) s = .next (s.deliver (.ok (wordS t) 0)) ∧
      ∀ t' : Int, InTickRange t' → ((rft s.config t').le r = true ↔ t' ≤ t)

/-- In the default store TFNR of RFT of a tick is the tick (R178). -/
def Obligations.DefaultTickRatioRoundTrip : Prop :=
  ∀ (t : Int) (s : State), s.config = Config.default → InTickRange t →
    ∃ m e : Word, exec (.rft (wordS t)) s = .next (s.deliver (.ok m e)) ∧
      exec (.tfnr m e) s = .next (s.deliver (.ok (wordS t) 0))

/-- The 13-bit logarithm of the pipeline never exceeds the base-2 logarithm of the ratio (R173). -/
def Obligations.LogDigitsStayBelowTheLogarithm : Prop :=
  ∀ m e : Nat, 2 ^ 127 ≤ m → m < 2 ^ 128 → e ≤ 255 →
    -2 ^ 20 ≤ logDigits ⟨m, e⟩ ∧ logDigits ⟨m, e⟩ ≤ 2 ^ 20 - 1 ∧
      0 ≤ logDigits ⟨m, e⟩ + 2 ^ 13 * e ∧ 2 ^ (logDigits ⟨m, e⟩ + 2 ^ 13 * e).toNat ≤ m ^ 2 ^ 13

/-- In the default store the approximate-log pipeline equals tfnr on every pair of the range (R172, R173, D18). That the
pipeline is modelled beside the search, and is not what TFNR runs, is the model's choice (log entry 5). -/
def Obligations.DefaultLogPipelineMeetsTheDefinition : Prop :=
  ∀ r : Ratio, r.normalized = true → InRatioRange Config.default r →
    tfnr Config.default r = .ok (tickByLog Config.default r)

/-- TFR answers as NORM followed by TFNR on its results, and never BadOperand (R175). -/
def Obligations.TfrIsNormThenTfnr : Prop :=
  ∀ (a b : Word) (s : State),
    decode (Request.make 0x43 a b) = .ok (.tfr a b) ∧
    ((∃ k, exec (.norm a b) s = .next (s.deliver (.err k)) ∧ exec (.tfr a b) s = .next (s.deliver (.err k))) ∨
      ∃ m e : Word, exec (.norm a b) s = .next (s.deliver (.ok m e)) ∧ exec (.tfr a b) s = exec (.tfnr m e) s) ∧
    exec (.tfr a b) s ≠ .next (s.deliver (.err .badOperand))

/-- TFR answers the floor tick of the normalized pair (R172, R175). -/
def Obligations.TfrAnswersTheFloorTick : Prop :=
  ∀ (a b : Word) (s : State) (p : Nat) (r : Ratio),
    r = ⟨mantissaAt127 a.toNat p, (b.toNat : Int) + 127 - p⟩ → LeadingBit a.toNat p →
    0 ≤ r.exponent → r.exponent < 2 ^ 256 → InRatioRange s.config r →
    (rft s.config minTick).le s.config.minRatio = true →
    ∃ t : Int, exec (.tfr a b) s = .next (s.deliver (.ok (wordS t) 0)) ∧ IsFloorTick s.config r t

/-- RFV: the ceiling test first, the zero amounts in priority order, then the normalized quotient (R176, R10). -/
def Obligations.RfvAnswersTheNormalizedQuotient : Prop :=
  ∀ (a b : Word) (s : State),
    decode (Request.make 0x44 a b) = .ok (.rfv a b) ∧
    (s.config.maxSafeVolume < a.toNat ∨ s.config.maxSafeVolume < b.toNat →
      exec (.rfv a b) s = .next (s.deliver (.err .volumeTooLarge))) ∧
    (a.toNat ≤ s.config.maxSafeVolume → b.toNat ≤ s.config.maxSafeVolume → s.config.wellFormed = true →
      ∃ m e : Word, exec (.rfv a b) s = .next (s.deliver (.ok m e)) ∧
        (b = 0 → m.toNat = s.config.maxRatio.mantissa ∧ (e.toNat : Int) = s.config.maxRatio.exponent) ∧
        (b ≠ 0 → a = 0 → m.toNat = s.config.minRatio.mantissa ∧ (e.toNat : Int) = s.config.minRatio.exponent) ∧
        (b ≠ 0 → a ≠ 0 → ∃ p, LeadingBit (a.toNat * 2 ^ 128 / b.toNat) p ∧
          m.toNat = mantissaAt127 (a.toNat * 2 ^ 128 / b.toNat) p ∧ e.toNat + p = 255))

/-- TFV: the ceiling test first, the extreme ticks for zero amounts, then the floor tick of a quotient in range (R172,
R177). The tick outside the ratio range is a free value of the model, and OK there its choice (log entry 19). -/
def Obligations.TfvAnswersTheTickOfTheQuotient : Prop :=
  ∀ (a b : Word) (s : State),
    decode (Request.make 0x45 a b) = .ok (.tfv a b) ∧
    (s.config.maxSafeVolume < a.toNat ∨ s.config.maxSafeVolume < b.toNat →
      exec (.tfv a b) s = .next (s.deliver (.err .volumeTooLarge))) ∧
    (a.toNat ≤ s.config.maxSafeVolume → b.toNat ≤ s.config.maxSafeVolume →
      (b = 0 → exec (.tfv a b) s = .next (s.deliver (.ok (wordS 887272) 0))) ∧
      (b ≠ 0 → a = 0 → exec (.tfv a b) s = .next (s.deliver (.ok (wordS (-887272)) 0))) ∧
      ∀ (p : Nat) (r : Ratio), b ≠ 0 → LeadingBit (a.toNat * 2 ^ 128 / b.toNat) p →
        r = ⟨mantissaAt127 (a.toNat * 2 ^ 128 / b.toNat) p, 255 - p⟩ →
        (InRatioRange s.config r → (rft s.config minTick).le r = true →
          ∃ t : Int, exec (.tfv a b) s = .next (s.deliver (.ok (wordS t) 0)) ∧ IsFloorTick s.config r t) ∧
        (¬ InRatioRange s.config r →
          ∃ t : Int, exec (.tfv a b) s = .next (s.deliver (.ok (wordS t) 0)) ∧ InTickRange t))

/-- IFO: the amount times the ratio of the tick, rounded down (R190, R191). -/
def Obligations.IfoAppliesTheRatioRoundingDown : Prop :=
  ∀ (a b : Word) (s : State),
    decode (Request.make 0x48 a b) = .ok (.ifo a b) ∧
    (a.toInt < -887272 → exec (.ifo a b) s = .next (s.deliver (.err .tickTooLow))) ∧
    (887272 < a.toInt → exec (.ifo a b) s = .next (s.deliver (.err .tickTooHigh))) ∧
    (InTickRange a.toInt → (rft s.config a.toInt).legal = true →
      (2 ^ 256 ≤ (rft s.config a.toInt).mantissa * b.toNat →
        exec (.ifo a b) s = .next (s.deliver (.err .overflow))) ∧
      ((rft s.config a.toInt).mantissa * b.toNat < 2 ^ 256 →
        ∃ r : Word, exec (.ifo a b) s = .next (s.deliver (.ok r 0)) ∧
          r.toNat = (rft s.config a.toInt).mantissa * b.toNat / 2 ^ (rft s.config a.toInt).exponent.toNat))

/-- IFOUP: the amount times the ratio of the tick, rounded up (R190, R192). -/
def Obligations.IfoupAppliesTheRatioRoundingUp : Prop :=
  ∀ (a b : Word) (s : State),
    decode (Request.make 0x49 a b) = .ok (.ifoup a b) ∧
    (a.toInt < -887272 → exec (.ifoup a b) s = .next (s.deliver (.err .tickTooLow))) ∧
    (887272 < a.toInt → exec (.ifoup a b) s = .next (s.deliver (.err .tickTooHigh))) ∧
    (InTickRange a.toInt → (rft s.config a.toInt).legal = true →
      (2 ^ 256 ≤ (rft s.config a.toInt).mantissa * b.toNat →
        exec (.ifoup a b) s = .next (s.deliver (.err .overflow))) ∧
      ((rft s.config a.toInt).mantissa * b.toNat < 2 ^ 256 →
        ∃ r : Word, exec (.ifoup a b) s = .next (s.deliver (.ok r 0)) ∧
          r.toNat = ((rft s.config a.toInt).mantissa * b.toNat + (2 ^ (rft s.config a.toInt).exponent.toNat - 1)) /
          2 ^ (rft s.config a.toInt).exponent.toNat))

/-- OFI: the amount times the ratio of the negated tick, rounded down (R190, R193). -/
def Obligations.OfiAppliesTheNegatedTickRoundingDown : Prop :=
  ∀ (a b : Word) (s : State),
    decode (Request.make 0x4A a b) = .ok (.ofi a b) ∧
    (a.toInt < -887272 → exec (.ofi a b) s = .next (s.deliver (.err .tickTooLow))) ∧
    (887272 < a.toInt → exec (.ofi a b) s = .next (s.deliver (.err .tickTooHigh))) ∧
    (InTickRange a.toInt → (rft s.config (-a.toInt)).legal = true →
      (2 ^ 256 ≤ (rft s.config (-a.toInt)).mantissa * b.toNat →
        exec (.ofi a b) s = .next (s.deliver (.err .overflow))) ∧
      ((rft s.config (-a.toInt)).mantissa * b.toNat < 2 ^ 256 →
        ∃ r : Word, exec (.ofi a b) s = .next (s.deliver (.ok r 0)) ∧
          r.toNat = (rft s.config (-a.toInt)).mantissa * b.toNat / 2 ^ (rft s.config (-a.toInt)).exponent.toNat))

/-- OFIUP: the amount times the ratio of the negated tick, rounded up (R190, R194). -/
def Obligations.OfiupAppliesTheNegatedTickRoundingUp : Prop :=
  ∀ (a b : Word) (s : State),
    decode (Request.make 0x4B a b) = .ok (.ofiup a b) ∧
    (a.toInt < -887272 → exec (.ofiup a b) s = .next (s.deliver (.err .tickTooLow))) ∧
    (887272 < a.toInt → exec (.ofiup a b) s = .next (s.deliver (.err .tickTooHigh))) ∧
    (InTickRange a.toInt → (rft s.config (-a.toInt)).legal = true →
      (2 ^ 256 ≤ (rft s.config (-a.toInt)).mantissa * b.toNat →
        exec (.ofiup a b) s = .next (s.deliver (.err .overflow))) ∧
      ((rft s.config (-a.toInt)).mantissa * b.toNat < 2 ^ 256 →
        ∃ r : Word, exec (.ofiup a b) s = .next (s.deliver (.ok r 0)) ∧
          r.toNat = ((rft s.config (-a.toInt)).mantissa * b.toNat + (2 ^ (rft s.config (-a.toInt)).exponent.toNat - 1)) /
          2 ^ (rft s.config (-a.toInt)).exponent.toNat))

/-- OFI t, x answers as IFO -t, x for every tick in range, and OFIUP as IFOUP (R193, R194). -/
def Obligations.OutboundConversionIsInboundOfNegatedTick : Prop :=
  ∀ (t : Int) (x : Word) (s : State), InTickRange t →
    exec (.ofi (wordS t) x) s = exec (.ifo (wordS (-t)) x) s ∧
      exec (.ofiup (wordS t) x) s = exec (.ifoup (wordS (-t)) x) s

/-- The Up conversions fail with the others, and exceed them by 0 or 1 (R195). -/
def Obligations.UpConversionsExceedDownByAtMostOne : Prop :=
  ∀ (a b : Word) (s : State), (InTickRange a.toInt →
      (rft s.config a.toInt).legal = true ∧ (rft s.config (-a.toInt)).legal = true) →
    ((∃ k, exec (.ifo a b) s = .next (s.deliver (.err k)) ∧ exec (.ifoup a b) s = .next (s.deliver (.err k))) ∨
      ∃ q q' : Word, exec (.ifo a b) s = .next (s.deliver (.ok q 0)) ∧
        exec (.ifoup a b) s = .next (s.deliver (.ok q' 0)) ∧ (q' = q ∨ q'.toNat = q.toNat + 1)) ∧
    ((∃ k, exec (.ofi a b) s = .next (s.deliver (.err k)) ∧ exec (.ofiup a b) s = .next (s.deliver (.err k))) ∨
      ∃ q q' : Word, exec (.ofi a b) s = .next (s.deliver (.ok q 0)) ∧
        exec (.ofiup a b) s = .next (s.deliver (.ok q' 0)) ∧ (q' = q ∨ q'.toNat = q.toNat + 1))

/-- The conversions are monotone in the amount and in the tick, in every store that meets R10 (R195, R10). -/
def Obligations.ConversionsAreMonotone : Prop :=
  ∀ (t t' : Int) (x x' : Word) (s : State) (q q' : Word), (s.config = Config.default ∨ Regular s.config) →
    InTickRange t → InTickRange t' → t ≤ t' → x.toNat ≤ x'.toNat →
    (exec (.ifo (wordS t) x) s = .next (s.deliver (.ok q 0)) →
      exec (.ifo (wordS t') x') s = .next (s.deliver (.ok q' 0)) → q.toNat ≤ q'.toNat) ∧
    (exec (.ifoup (wordS t) x) s = .next (s.deliver (.ok q 0)) →
      exec (.ifoup (wordS t') x') s = .next (s.deliver (.ok q' 0)) → q.toNat ≤ q'.toNat) ∧
    (exec (.ofi (wordS t') x) s = .next (s.deliver (.ok q 0)) →
      exec (.ofi (wordS t) x') s = .next (s.deliver (.ok q' 0)) → q.toNat ≤ q'.toNat) ∧
    (exec (.ofiup (wordS t') x) s = .next (s.deliver (.ok q 0)) →
      exec (.ofiup (wordS t) x') s = .next (s.deliver (.ok q' 0)) → q.toNat ≤ q'.toNat)

/-- Decoding the encoding of a command gives the command back, for all 27 commands (R61, R64). -/
def Obligations.DecodeOfEncodeIsTheCommand : Prop :=
  ∀ i : Instr, Laws.RoundTrip.Statement i

/-- Encoding what the decoder reads gives the request back, an ignored operand word sent as zero (R61, R64, R67). That
the encoder sends 0 for an ignored operand word is the model's choice (log entry 10). -/
def Obligations.EncodeOfDecodeIsTheRequest : Prop :=
  ∀ (r : Request) (i : Instr), decode r = .ok i →
    encode i = if r.op ∈ oneOperandOpcodes then Request.make r.op r.a 0 else r

/-- The decoder rejects a request exactly when its opcode is one of the 229 unassigned values (R64, R66). -/
def Obligations.DecoderRejectsExactlyTheUnassignedOpcodes : Prop :=
  (∀ r : Request, r.op ∉ assignedOpcodes ↔ decode r = .error (.unassignedOpcode r.op)) ∧
    (∀ r : Request, r.op ∈ assignedOpcodes ↔ ∃ i, decode r = .ok i) ∧
    ((List.range 256).filter fun n => decide (BitVec.ofNat 8 n ∉ assignedOpcodes)).length = 229

/-- Request vectors written out by the spec decode to their commands (95_test_vectors.md 2.6, R61). -/
def Obligations.WrittenRequestsDecode : Prop :=
  decode 0x1000000000000000000000000000000000000000000000000000000000000000010000000000000000000000000000000000000000000000000000000000000002 =
      .ok (.addu 1 2) ∧
    decode 0x1100000000000000000000000000000000000000000000000000000000000000000000000000000000000000000000000000000000000000000000000000000001 =
      .ok (.subu 0 1) ∧
    decode 0x4500000000000000000000000000000000000000000000000000000000000000010000000000000000000000000000000000000000000000000000000000000002 =
      .ok (.tfv 1 2) ∧
    decode 0x3100000000000000000000000000000000000000000000000000000000000000040000000000000000000000000000000000000000000000000000000000000000 =
      .ok (.dto 4) ∧
    decode 0x0500000000000000000000000000000000000000000000000000000000000000010000000000000000000000000000000000000000000000000000000000000002 =
      .error (.unassignedOpcode 0x05)

/-- A step runs the decoded command on the accepted request, and is idle without a request (R60, R47). That accepting a
request empties both ports, and that a step without a request changes nothing, is the model's reading (log entry 9). -/
def Obligations.StepRunsTheDecodedCommand : Prop :=
  (∀ (s : State) (r : Request) (i : Instr), s.request = some r → decode r = .ok i → i.wellFormed = true →
      step s = exec i s.accept) ∧
    (∀ s : State, s.request = none → step s = .next s) ∧
    (∀ s : State, s.accept = { config := s.config, request := none, response := none })

/-- A request with an unassigned opcode is answered IllegalOp, whatever the operands hold (R66). -/
def Obligations.UnassignedOpcodeAnswersIllegalOp : Prop :=
  ∀ (op : BitVec 8) (a b : Word) (s : State), op ∉ assignedOpcodes →
    (∃ t, step (s.present (Request.make op a b)) = .next t ∧ t.config = s.config ∧ t.response = some (.err .illegalOp)) ∧
      (Response.err .illegalOp).pack.toNat = 15 * 2 ^ 512

/-- An ignored operand word does not affect the response in any way (R67). -/
def Obligations.IgnoredOperandDoesNotAffectTheStep : Prop :=
  ∀ (op : BitVec 8) (a b b' : Word) (s : State), op ∈ oneOperandOpcodes →
    step (s.present (Request.make op a b)) = step (s.present (Request.make op a b'))

/-- No step writes the constant store, so its constraints are kept (R27, R10). That accepting a request empties both
ports, and that a step without a request changes nothing, is the model's reading (log entry 9). -/
def Obligations.StepKeepsTheConstantStoreSound : Prop :=
  ∀ s t : State, step s = .next t →
    t.config = s.config ∧ (s.storeSound = true → t.storeSound = true) ∧
      t.request = none ∧ (s.request.isSome = true → t.response.isSome = true)

/-- A command writes only the response port, and only with a status the table of R202 allows it (R202, R14). -/
def Obligations.CommandsGiveOnlyTheirStatuses : Prop :=
  ∀ (i : Instr) (s t : State), exec i s = .next t →
    ∃ r : Response, t = s.deliver r ∧ r.kind? ∈ allowedStatuses i

/-- The response is a function of the request and the constant store alone (R46). That the constant store and the ports
are what State holds is the model's choice (log entries 1 and 2). That accepting a request empties both ports, and
that a step without a request changes nothing, is the model's reading (log entry 9). -/
def Obligations.ResponseDependsOnRequestAndStoreOnly : Prop :=
  ∀ (s s' : State) (r : Request), s.config = s'.config → s.request = some r → s'.request = some r →
    step s = step s' ∧ (∀ t, step s = .next t → ∃ a, t = { config := s.config, request := none, response := some a })

/-- A sequence of requests is answered in order, each as it would be alone (R46, R47). That accepting a request empties
both ports, and that a step without a request changes nothing, is the model's reading (log entry 9). -/
def Obligations.ServedResponsesAreThoseOfEachRequestAlone : Prop :=
  ∀ (rs : List Request) (s : State), serve s rs = rs.mapM fun r => responseOf (transact s r)

/-- With the default store, and with every store that meets R10, every request vector is answered (R7, R46, R47, R60,
R242). That accepting a request empties both ports, and that a step without a request changes nothing, is the
model's reading (log entry 9). -/
def Obligations.StoresThatMeetR10AnswerEveryRequest : Prop :=
  ∀ (s : State) (r : Request), s.config = Config.default ∨ Regular s.config →
    ∃ a : Response, transact s r = .next { config := s.config, request := none, response := some a }

/-- After reset both ports are idle and the constant store is sound and unchanged (R36, R230, R231). That reset is no
step of the machine but an operation of its own, and that it empties the request port too, is the model's reading
(log entry 15). -/
def Obligations.ResetLeavesTheUnitIdleAndTheStoreAlone : Prop :=
  State.reset.request = none ∧ State.reset.response = none ∧ State.reset.storeSound = true ∧
    ∀ s : State, s.applyReset = { config := s.config, request := none, response := none }

/-- A response packed into 516 bits reads back, and an error carries zero result words (R62, R63, R201). That the host's
reading answers none for a vector the unit never gives is the model's choice (log entry 16). -/
def Obligations.ResponseVectorsRoundTrip : Prop :=
  (∀ r : Response, Response.unpack r.pack = some r ∧
      r.pack.toNat = r.status.toNat * 2 ^ 512 + r.r0.toNat * 2 ^ 256 + r.r1.toNat) ∧
    ∀ k : ErrorKind, (Response.err k).pack.toNat = k.code.toNat * 2 ^ 512 ∧
      k.code.toNat ∈ [1, 2, 3, 4, 5, 6, 7, 14, 15]

/-- A script stops at the first error; NEGS, BIN and TFR2 answer as R76 says (R75, R76, R211). That a script names
results by their places is the model's choice (log entry 11). -/
def Obligations.ScriptPseudoCommandsMatchTheirCommands : Prop :=
  (∀ (l : ScriptLine) (r : Request) (rest : List ScriptLine) (s : State) (bound : List Word) (k : ErrorKind),
      l.request bound = some r → responseOf (transact s r) = some (.err k) →
      runScript (l :: rest) s bound = .stopped k bound) ∧
    (∀ (l : ScriptLine) (r : Request) (rest : List ScriptLine) (s t : State) (bound : List Word) (r0 r1 : Word),
      l.request bound = some r → transact s r = .next t → t.response = some (.ok r0 r1) →
      runScript (l :: rest) s bound = runScript rest t (bound ++ [r0, r1])) ∧
    (∀ (x : Word) (s : State),
      (x.toInt = -2 ^ 255 → runScript (negsScript x) s [] = .stopped .overflow []) ∧
      (x.toInt ≠ -2 ^ 255 → ∃ r : Word, r.toInt = -x.toInt ∧ runScript (negsScript x) s [] = .finished [r, 0])) ∧
    (∀ (t d : Word) (s : State),
      (-2 ^ 255 ≤ t.toInt * d.toInt → t.toInt * d.toInt < 2 ^ 255 →
        ∃ r : Word, r.toInt = t.toInt * d.toInt ∧ runScript (binScript t d) s [] = .finished [r, 0]) ∧
      (2 ^ 255 ≤ t.toInt * d.toInt → runScript (binScript t d) s [] = .stopped .overflow []) ∧
      (t.toInt * d.toInt < -2 ^ 255 → runScript (binScript t d) s [] = .stopped .underflow [])) ∧
    ∀ (m e : Word) (s : State),
      (∃ k bound, exec (.tfr m e) s = .next (s.deliver (.err k)) ∧ runScript (tfr2Script m e) s [] = .stopped k bound) ∨
      (∃ t x y, exec (.tfr m e) s = .next (s.deliver (.ok t 0)) ∧
        runScript (tfr2Script m e) s [] = .finished [x, y, t, 0]) ∨
      ∃ why, exec (.tfr m e) s = .refused why ∧ runScript (tfr2Script m e) s [] = .refused why

/-- TFV answers as RFV then TFNR and as the script of TFV2, wherever R202 allows TFV the script's status (R76, R177,
R202). Where R76 asks of TFV a status that R177 and R202 exclude, that the model follows these two is its choice
(log entry 19). -/
def Obligations.TfvIsRfvThenTfnr : Prop :=
  ∀ (a b : Word) (s : State),
    (s.config = Config.default ∨
      Regular s.config ∧ SentinelsAreExtreme s.config) →
    (exec (.rfv a b) s = .next (s.deliver (.err .volumeTooLarge)) ∧
      exec (.tfv a b) s = .next (s.deliver (.err .volumeTooLarge)) ∧
      runScript (tfv2Script a b) s [] = .stopped .volumeTooLarge []) ∨
    (∃ m e t : Word, exec (.rfv a b) s = .next (s.deliver (.ok m e)) ∧
      exec (.tfnr m e) s = .next (s.deliver (.ok t 0)) ∧ exec (.tfv a b) s = .next (s.deliver (.ok t 0)) ∧
      runScript (tfv2Script a b) s [] = .finished [m, e, t, 0]) ∨
    ¬ VolumesInRange s.config a b ∧
      ∃ (m e : Word) (k : ErrorKind) (t : Int), exec (.rfv a b) s = .next (s.deliver (.ok m e)) ∧
        exec (.tfnr m e) s = .next (s.deliver (.err k)) ∧ runScript (tfv2Script a b) s [] = .stopped k [m, e] ∧
        (k = .tickTooLow ∨ k = .tickTooHigh) ∧ some k ∉ allowedStatuses (.tfv a b) ∧
        exec (.tfv a b) s = .next (s.deliver (.ok (wordS t) 0)) ∧ InTickRange t
end

