-- ==== Sys2Proof/Laws/State.lean ====
section
/-! SUPPORT. One lemma for each field under each update of the state, and under reset. -/

namespace Sys2Proof.Machine

variable (s : State) (q : Request) (r : Response) (k : ErrorKind)

@[simp] theorem State.present_config : (s.present q).config = s.config := rfl
@[simp] theorem State.present_request : (s.present q).request = some q := rfl
@[simp] theorem State.present_response : (s.present q).response = s.response := rfl
@[simp] theorem State.accept_config : s.accept.config = s.config := rfl
@[simp] theorem State.accept_request : s.accept.request = none := rfl
@[simp] theorem State.accept_response : s.accept.response = none := rfl
@[simp] theorem State.deliver_config : (s.deliver r).config = s.config := rfl
@[simp] theorem State.deliver_request : (s.deliver r).request = s.request := rfl
@[simp] theorem State.deliver_response : (s.deliver r).response = some r := rfl
@[simp] theorem State.takeError_config : (s.takeError k).config = s.config := rfl
@[simp] theorem State.takeError_request : (s.takeError k).request = s.request := rfl
@[simp] theorem State.takeError_response : (s.takeError k).response = some (.err k) := rfl
@[simp] theorem State.applyReset_config : s.applyReset.config = s.config := rfl
@[simp] theorem State.applyReset_request : s.applyReset.request = none := rfl
@[simp] theorem State.applyReset_response : s.applyReset.response = none := rfl
@[simp] theorem State.reset_config : State.reset.config = Config.default := rfl
@[simp] theorem State.reset_request : State.reset.request = none := rfl
@[simp] theorem State.reset_response : State.reset.response = none := rfl

/-- Taking an error is presenting the response that carries its kind. -/
@[simp] theorem State.takeError_eq : s.takeError k = s.deliver (.err k) := rfl

/-- Presenting and accepting a request leaves both ports empty. -/
@[simp] theorem State.accept_present : (s.present q).accept = s.accept := rfl

/-- A second response replaces the first. -/
@[simp] theorem State.deliver_deliver (r' : Response) : (s.deliver r).deliver r' = s.deliver r' := rfl

end Sys2Proof.Machine
end

