-- ==== Sys2Proof/Laws/Ops.lean ====
section
/-! SUPPORT. For each shared operation, what it can do, said once. -/

namespace Sys2Proof.Machine

/-! ### The end of a command -/

@[simp] theorem answer_ok (s : State) (w : Word × Word) : answer s (.ok w) = .next (s.deliver (.ok w.1 w.2)) := rfl

@[simp] theorem answer_raise (s : State) (k : ErrorKind) : answer s (raise k) = .next (s.takeError k) := rfl

@[simp] theorem answer_error_raise (s : State) (k : ErrorKind) :
    answer s (.error (.raise k)) = .next (s.takeError k) := rfl

@[simp] theorem answer_outsideDomain (s : State) :
    answer s (.error .outsideDomain) = .refused .constantStoreOutsideDomain := rfl

/-- If a command ends in a next state, it has written the response port and nothing else. -/
theorem answer_next {s t : State} {e : Eval (Word × Word)} (h : answer s e = .next t) :
    ∃ r, t = s.deliver r ∧ ((∃ w, e = .ok w ∧ r = .ok w.1 w.2) ∨ ∃ k, e = .error (.raise k) ∧ r = .err k) := by
  rcases e with (_ | _) | w <;> simp only [answer] at h
  · cases h; exact ⟨_, rfl, .inr ⟨_, rfl, rfl⟩⟩
  · cases h
  · cases h; exact ⟨_, rfl, .inl ⟨_, rfl, rfl⟩⟩

/-- A command never ends in a fault. -/
theorem answer_ne_fault (s : State) (e : Eval (Word × Word)) (f : Fault) : answer s e ≠ .fault f := nomatch f

/-! ### Sequencing of evaluations -/

@[simp] theorem ok_bind {α β : Type} (x : α) (f : α → Eval β) : (Except.ok x >>= f : Eval β) = f x := rfl

@[simp] theorem error_bind {α β : Type} (e : Stop) (f : α → Eval β) :
    (Except.error e >>= f : Eval β) = .error e := rfl

@[simp] theorem raise_bind {α β : Type} (k : ErrorKind) (f : α → Eval β) : (raise k >>= f : Eval β) = raise k := rfl

@[simp] theorem pure_eq_ok {α : Type} (x : α) : (pure x : Eval α) = .ok x := rfl

/-- A sequence gives a value only through a value of its first part. -/
theorem bind_eq_ok {α β : Type} {x : Eval α} {f : α → Eval β} {v : β} :
    x >>= f = .ok v ↔ ∃ a, x = .ok a ∧ f a = .ok v := by
  rcases x with e | a <;> simp

/-- A sequence stops where its first part stops, or where the rest does. -/
theorem bind_eq_error {α β : Type} {x : Eval α} {f : α → Eval β} {e : Stop} :
    x >>= f = .error e ↔ x = .error e ∨ ∃ a, x = .ok a ∧ f a = .error e := by
  rcases x with e' | a <;> simp

/-! ### Range tests -/

/-- The unsigned range test, by where the exact result lies. -/
theorem checkedUnsigned_eq (t : Int) :
    checkedUnsigned t = if 2 ^ 256 ≤ t then raise .overflow else if t < 0 then raise .underflow else .ok t.toNat := by
  unfold checkedUnsigned wordMax; congr 1

theorem checkedUnsigned_ok {t : Int} {v : Nat} : checkedUnsigned t = .ok v ↔ t < 2 ^ 256 ∧ t = v := by
  rw [checkedUnsigned_eq]
  split
  · simp only [raise, reduceCtorEq, false_iff]; omega
  · split
    · simp only [raise, reduceCtorEq, false_iff]; omega
    · simp only [Except.ok.injEq]; omega

/-- The signed range test, by where the exact result lies. -/
theorem checkedSigned_eq (t : Int) :
    checkedSigned t = if 2 ^ 255 ≤ t then raise .overflow else if t < -2 ^ 255 then raise .underflow else .ok t := by
  unfold checkedSigned swordMax swordMin; congr 1

theorem checkedSigned_ok {t v : Int} : checkedSigned t = .ok v ↔ (-2 ^ 255 ≤ t ∧ t < 2 ^ 255) ∧ t = v := by
  rw [checkedSigned_eq]
  split
  · simp only [raise, reduceCtorEq, false_iff]; omega
  · split
    · simp only [raise, reduceCtorEq, false_iff]; omega
    · simp only [Except.ok.injEq]; omega

/-- A tick operand, by where the signed word lies. -/
theorem tickOperand_eq (w : Word) :
    tickOperand w =
      if w.toInt < minTick then raise .tickTooLow
      else if maxTick < w.toInt then raise .tickTooHigh else .ok w.toInt := by
  unfold tickOperand tickCheck sword
  by_cases h : w.toInt < minTick
  · rw [if_pos h, if_pos h]; rfl
  · rw [if_neg h, if_neg h]
    by_cases h' : maxTick < w.toInt
    · rw [if_pos h', if_pos h']; rfl
    · rw [if_neg h', if_neg h']; rfl

/-- The encoder's operand, by whether it fits 128 bits. -/
theorem fixOperand_eq (w : Word) :
    fixOperand w = if w.toNat < 2 ^ 128 then .ok w.toNat else raise .invalidDensity := by
  unfold fixOperand uword fixBound
  split <;> split <;> first | rfl | omega

/-- The volume ceiling lets two amounts pass exactly when neither exceeds it. -/
theorem volumeCheck_eq (c : Config) (i o : Nat) :
    volumeCheck c i o = if i ≤ c.maxSafeVolume ∧ o ≤ c.maxSafeVolume then .ok () else raise .volumeTooLarge := by
  unfold volumeCheck
  split <;> split <;> first | rfl | omega

/-- The result words of a ratio exist exactly when it is legal. -/
theorem ratioWords_eq (r : Ratio) :
    ratioWords r = if r.legal then .ok (wordU r.mantissa, wordU r.exponent.toNat) else .error .outsideDomain := by
  unfold ratioWords legalRatio
  split <;> rfl

/-- The result words of a sentinel exist exactly when it is a normalized pair of words. -/
theorem sentinelWords_eq (r : Ratio) :
    sentinelWords r =
      if r.wordPair then .ok (wordU r.mantissa, wordU r.exponent.toNat) else .error .outsideDomain := rfl

/-! ### Ratios -/

theorem Ratio.lt_iff (x y : Ratio) :
    x.lt y = true ↔ y.exponent < x.exponent ∨ x.exponent = y.exponent ∧ x.mantissa < y.mantissa := by
  simp [Ratio.lt]

theorem Ratio.le_iff (x y : Ratio) :
    x.le y = true ↔ y.exponent < x.exponent ∨ x.exponent = y.exponent ∧ x.mantissa ≤ y.mantissa := by
  simp only [Ratio.le, Bool.not_eq_true', Bool.eq_false_iff, ne_eq, Ratio.lt_iff]
  omega

theorem Ratio.normalized_iff (x : Ratio) : x.normalized = true ↔ 2 ^ 127 ≤ x.mantissa ∧ x.mantissa < 2 ^ 128 := by
  rw [Ratio.normalized, Bool.and_eq_true, decide_eq_true_iff, decide_eq_true_iff]; rfl

theorem Ratio.legal_iff (x : Ratio) :
    x.legal = true ↔ (2 ^ 127 ≤ x.mantissa ∧ x.mantissa < 2 ^ 128) ∧ 0 ≤ x.exponent ∧ x.exponent ≤ 255 := by
  simp only [Ratio.legal, Bool.and_eq_true, Ratio.normalized_iff, decide_eq_true_eq, and_assoc]

theorem Ratio.wordPair_iff (x : Ratio) :
    x.wordPair = true ↔ (2 ^ 127 ≤ x.mantissa ∧ x.mantissa < 2 ^ 128) ∧ 0 ≤ x.exponent ∧ x.exponent < 2 ^ 256 := by
  have h : x.exponent ≤ wordMax ↔ x.exponent < 2 ^ 256 := by unfold wordMax; omega
  simp only [Ratio.wordPair, Bool.and_eq_true, Ratio.normalized_iff, decide_eq_true_eq, and_assoc, h]

/-- A legal pair is a normalized pair of words. -/
theorem Ratio.wordPair_of_legal {x : Ratio} (h : x.legal = true) : x.wordPair = true := by
  obtain ⟨hm, h0, h1⟩ := (Ratio.legal_iff x).1 h
  exact (Ratio.wordPair_iff x).2 ⟨hm, h0, by omega⟩

/-- The order on ratio pairs is transitive. -/
theorem Ratio.le_trans {x y z : Ratio} (h : x.le y = true) (h' : y.le z = true) : x.le z = true := by
  rw [Ratio.le_iff] at *
  omega

/-- Of two pairs one is below the other, or at or above it. -/
theorem Ratio.lt_eq_false_iff (x y : Ratio) : x.lt y = false ↔ y.le x = true := by
  rw [Ratio.le, Bool.not_eq_true']

/-! ### Bit scans -/

theorem fls_zero : fls 0 = 256 := rfl

/-- The leading bit of a value that is not zero. -/
theorem fls_spec {x : Nat} (h : x ≠ 0) : 2 ^ fls x ≤ x ∧ x < 2 ^ (fls x + 1) := by
  rw [fls, if_neg h]
  exact ⟨Nat.log2_self_le h, Nat.lt_log2_self⟩

/-- The count of trailing zeros never exceeds the width. -/
theorem trailingZeros_le (width y : Nat) : trailingZeros width y ≤ width := by
  induction width generalizing y with
  | zero => simp [trailingZeros]
  | succ n ih =>
    unfold trailingZeros
    split
    · omega
    · exact Nat.succ_le_succ (ih _)

/-! ### Quotients rounded up -/

/-- Rounding up is rounding down, and one more exactly when there is a remainder. -/
theorem ceilShift_eq (n k : Nat) : ceilShift n k = n / 2 ^ k + if n % 2 ^ k = 0 then 0 else 1 := by
  unfold ceilShift
  split <;> rfl

/-! ### The search for a tick -/

/-- Where the search ends: at its start or at a count the test accepts; and, if the count `2^bits` above the start is not
accepted, the count after the end is not accepted either. -/
theorem searchTick_spec (c : Config) (r : Ratio) (bits n : Nat) :
    (searchTick c r bits n = n ∨ ratioReached c r (searchTick c r bits n) = true) ∧
      (ratioReached c r (n + 2 ^ bits) = false → ratioReached c r (searchTick c r bits n + 1) = false) := by
  induction bits generalizing n with
  | zero => exact ⟨.inl rfl, by simp [searchTick]⟩
  | succ b ih =>
    unfold searchTick
    by_cases hr : ratioReached c r (n + 2 ^ b) = true
    · rw [if_pos hr]
      obtain ⟨h1, h2⟩ := ih (n + 2 ^ b)
      refine ⟨.inr (h1.elim (fun h => h.symm ▸ hr) id), fun h => h2 ?_⟩
      rw [Nat.add_assoc, ← Nat.two_mul, ← Nat.pow_succ']
      exact h
    · rw [if_neg hr]
      obtain ⟨h1, h2⟩ := ih n
      exact ⟨h1, fun _ => h2 (Bool.not_eq_true _ ▸ hr)⟩

end Sys2Proof.Machine
end

