-- ==== Sys2Proof/Laws/Commands.lean ====
section
/-! SUPPORT. What the operations of the density, ratio and conversion commands can do, and what a step does with a
presented request, each said once. -/

namespace Sys2Proof.Machine

/-! ### Words -/

theorem wordU_toNat {n : Nat} (h : n < 2 ^ 256) : (wordU n).toNat = n := by
  rw [wordU, BitVec.toNat_ofNat, Nat.mod_eq_of_lt h]

theorem wordS_toInt {n : Int} (h : -2 ^ 255 ≤ n) (h' : n < 2 ^ 255) : (wordS n).toInt = n := by
  rw [wordS, BitVec.toInt_ofInt]
  exact Int.bmod_eq_of_le (by omega) (by omega)

/-! ### Leading bits and the normalizer -/

/-- `fls` finds the leading bit, which is unique. -/
theorem LeadingBit.fls_eq {x p : Nat} (h : LeadingBit x p) : fls x = p := by
  obtain ⟨h1, h2⟩ := h
  have h0 : x ≠ 0 := by have := Nat.two_pow_pos p; omega
  rw [fls, if_neg h0]
  exact Nat.log2_eq_iff h0 |>.2 ⟨h1, h2⟩

/-- A value that is not zero has a leading bit. -/
theorem leadingBit_fls {x : Nat} (h : x ≠ 0) : LeadingBit x (fls x) := fls_spec h

/-- The normalizer, by the leading bit of the mantissa. -/
theorem normalizeRatio_eq {m p : Nat} (h : LeadingBit m p) (e : Int) :
    normalizeRatio m e = ⟨mantissaAt127 m p, e + 127 - p⟩ := by
  unfold normalizeRatio mantissaAt127
  rw [h.fls_eq]
  split <;> split <;> first | rfl | omega

/-- What the normalizer gives occupies exactly 128 bits. -/
theorem normalized_mantissaAt127 {m p : Nat} (h : LeadingBit m p) :
    2 ^ 127 ≤ mantissaAt127 m p ∧ mantissaAt127 m p < 2 ^ 128 := by
  obtain ⟨h1, h2⟩ := h
  unfold mantissaAt127
  split
  · have h127 : 2 ^ p * 2 ^ (127 - p) = 2 ^ 127 := by rw [← Nat.pow_add]; congr 1; omega
    have h128 : 2 ^ (p + 1) * 2 ^ (127 - p) = 2 ^ 128 := by rw [← Nat.pow_add]; congr 1; omega
    exact ⟨h127.symm.trans_le (Nat.mul_le_mul_right _ h1),
      (Nat.mul_lt_mul_of_pos_right h2 (Nat.two_pow_pos _)).trans_eq h128⟩
  · have h127 : 2 ^ 127 * 2 ^ (p - 127) = 2 ^ p := by
      rw [← Nat.pow_add, show 127 + (p - 127) = p by omega]
    have h128 : 2 ^ 128 * 2 ^ (p - 127) = 2 ^ (p + 1) := by
      rw [← Nat.pow_add, show 128 + (p - 127) = p + 1 by omega]
    rw [Nat.le_div_iff_mul_le (Nat.two_pow_pos _), Nat.div_lt_iff_lt_mul (Nat.two_pow_pos _), h127, h128]
    exact ⟨h1, h2⟩

/-! ### The density codec -/

/-- The decoder, by whether the word is a canonical density. -/
theorem densityDecode_canonical {d : Nat} (h : CanonicalDensity d) : densityDecode d = .ok (densityValue d) := by
  obtain ⟨h1, h2⟩ := h
  unfold densityDecode densityValue densityMask densityImplicitOne
  rw [if_neg (by omega), if_neg h2]
  split <;> split <;> first | omega | skip
  · rw [Nat.mod_eq_of_lt ‹_›]
  · rfl

theorem densityDecode_rejects {d : Nat} (h : ¬ CanonicalDensity d) : densityDecode d = raise .invalidDensity := by
  unfold densityDecode densityMask densityImplicitOne
  split
  · rfl
  · rw [if_pos]
    by_contra h'
    exact h ⟨by omega, h'⟩

/-! ### The tick of a ratio -/

/-- The first tick is the least one. -/
theorem ratioReached_one (c : Config) (r : Ratio) : ratioReached c r 1 = (rft c minTick).le r := by
  have h : minTick + (1 : Nat) - 1 = minTick := by omega
  simp [ratioReached]

/-- A count the search accepts stands for a tick of the legal range. -/
theorem ratioReached_iff (c : Config) (r : Ratio) (k : Nat) :
    ratioReached c r (k + 1) = true ↔ k ≤ tickSpan ∧ (rft c (minTick + k)).le r = true := by
  have h : minTick + ((k + 1 : Nat) : Int) - 1 = minTick + k := by omega
  simp only [ratioReached, Bool.and_eq_true, decide_eq_true_eq, h, Nat.add_le_add_iff_right]

/-- No count beyond the number of ticks is accepted. -/
theorem ratioReached_eq_false (c : Config) (r : Ratio) {k : Nat} (h : tickSpan + 1 < k) :
    ratioReached c r k = false := by
  rw [ratioReached, decide_eq_false (Nat.not_le.2 h), Bool.false_and]

theorem tickOfCount_eq_ok {n : Nat} {t : Int} : tickOfCount n = .ok t ↔ ∃ k : Nat, n = k + 1 ∧ t = minTick + k := by
  cases n with
  | zero => simp [tickOfCount]
  | succ k =>
    simp only [tickOfCount, Except.ok.injEq, Nat.add_right_cancel_iff]
    exact ⟨fun e => ⟨k, rfl, e.symm⟩, fun ⟨_, e, e'⟩ => e ▸ e'.symm⟩

/-- A count that is accepted, or 0, and that is the last one accepted, stands for a tick with the floor property. -/
theorem tickOfCount_isFloorTick {c : Config} {r : Ratio} {n : Nat} (h : (rft c minTick).le r = true)
    (hend : n = 0 ∨ ratioReached c r n = true) (hnext : ratioReached c r (n + 1) = false) :
    ∃ t : Int, tickOfCount n = .ok t ∧ IsFloorTick c r t := by
  cases n with
  | zero =>
    rw [ratioReached_one, h] at hnext
    cases hnext
  | succ k =>
    obtain ⟨hk1, hk2⟩ := (ratioReached_iff c r k).1 (hend.resolve_left (Nat.succ_ne_zero k))
    unfold tickSpan at hk1
    refine ⟨_, rfl, ⟨by omega, by unfold minTick maxTick; omega⟩, hk2, ?_⟩
    rcases Nat.lt_or_ge k 1774544 with hlt | hge
    · right
      rw [Bool.eq_false_iff, ne_eq, ratioReached_iff, not_and] at hnext
      have hn := hnext hlt
      rw [Ratio.le, Bool.not_eq_true', Bool.not_eq_false] at hn
      rwa [show minTick + (k : Int) + 1 = minTick + ((k + 1 : Nat) : Int) by omega]
    · left
      unfold minTick maxTick
      omega

/-- Where the least tick's ratio is at or below the pair, `tfnr` gives a tick with the floor property. -/
theorem tfnr_isFloorTick {c : Config} {r : Ratio} (h : (rft c minTick).le r = true) :
    ∃ t : Int, tfnr c r = .ok t ∧ IsFloorTick c r t :=
  have hs := searchTick_spec c r 21 0
  tickOfCount_isFloorTick h hs.1 (hs.2 (ratioReached_eq_false c r (by decide)))

/-- Inside the ratio range a store with `RFT(MIN_TICK) <= MIN_RATIO` covers the pair. -/
theorem InRatioRange.covered {c : Config} {r : Ratio} (h : InRatioRange c r)
    (hc : (rft c minTick).le c.minRatio = true) : (rft c minTick).le r = true :=
  Ratio.le_trans hc ((Ratio.lt_eq_false_iff _ _).1 h.1)

/-- `TFNR` answers a pair outside the ratio range with the error of its side. -/
theorem tickOfRatio_outOfRange {c : Config} {r : Ratio} (h : ¬ InRatioRange c r) :
    tickOfRatio c r = raise .tickTooLow ∨ tickOfRatio c r = raise .tickTooHigh := by
  unfold tickOfRatio
  cases hl : r.lt c.minRatio
  · cases hh : c.maxRatio.lt r
    · exact absurd ⟨hl, hh⟩ h
    · exact .inr rfl
  · exact .inl rfl

/-- Inside the ratio range the tick of two amounts is that of their ratio. -/
theorem tickOfVolumes_inRange {c : Config} {a b : Word} (h : InRatioRange c (volumeRatio a.toNat b.toNat)) :
    tickOfVolumes c a b = tfnr c (volumeRatio a.toNat b.toNat) := by
  unfold tickOfVolumes uword
  rw [if_neg (by rw [h.1, h.2]; simp)]

/-- Outside it the tick of two amounts is some tick of the legal range. -/
theorem tickOfVolumes_outOfRange {c : Config} {a b : Word} (h : ¬ InRatioRange c (volumeRatio a.toNat b.toNat)) :
    ∃ t : Int, tickOfVolumes c a b = .ok t ∧ InTickRange t := by
  unfold tickOfVolumes uword
  rw [if_pos (by simpa [InRatioRange, Classical.or_iff_not_imp_left] using h)]
  refine ⟨_, rfl, by unfold minTick; omega, ?_⟩
  have := (c.unstatedTick a b).isLt
  unfold minTick maxTick
  unfold tickSpan at this
  omega

/-! ### Amount conversions -/

/-- The conversion at a tick whose ratio is legal. -/
theorem applyRatio_eq {c : Config} {t : Int} (h : (rft c t).legal = true) (amount : Nat) (up : Bool) :
    applyRatio c t amount up =
      if 2 ^ 256 ≤ (rft c t).mantissa * amount then raise .overflow
      else .ok (if up then ceilShift ((rft c t).mantissa * amount) (rft c t).exponent.toNat
        else (rft c t).mantissa * amount / 2 ^ (rft c t).exponent.toNat) := by
  have e : ratioProduct c t amount =
      if 2 ^ 256 ≤ (rft c t).mantissa * amount then raise .overflow
      else .ok ((rft c t).mantissa * amount, (rft c t).exponent.toNat) := by
    rw [ratioProduct, legalRatio, if_pos h, ok_bind, checkedUnsigned_eq]
    by_cases hp : 2 ^ 256 ≤ (rft c t).mantissa * amount
    · rw [if_pos hp, if_pos (by exact_mod_cast hp), raise_bind]
    · rw [if_neg hp, if_neg (by exact_mod_cast hp), if_neg (by omega), ok_bind]; rfl
  rw [applyRatio, e]
  split <;> rfl

/-! ### The step -/

/-- A step runs the command that the presented request decodes to. -/
theorem step_request {s : State} {r : Request} {i : Instr} (h : s.request = some r) (hi : decode r = .ok i) :
    step s = exec i s.accept := by
  unfold step
  rw [h]
  dsimp only
  rw [hi]

/-- A step answers `IllegalOp` to a request that the decoder rejects. -/
theorem step_rejected {s : State} {r : Request} {e : DecodeError} (h : s.request = some r)
    (he : decode r = .error e) : step s = .next (s.accept.takeError .illegalOp) := by
  unfold step
  rw [h]
  dsimp only
  rw [he]

/-- What a step does with a request laid out from its fields, if they name a command. -/
theorem step_present {s : State} {op : BitVec 8} {a b : Word} {i : Instr} (h : decodeFields op a b = .ok i) :
    step (s.present (Request.make op a b)) = exec i s.accept :=
  step_request rfl ((decode_make op a b).trans h)

/-- A step is idle, runs a command on the accepted state, or answers `IllegalOp`. -/
theorem step_cases {s t : State} (h : step s = .next t) :
    (s.request = none ∧ t = s) ∨
      (∃ r i, s.request = some r ∧ decode r = .ok i ∧ exec i s.accept = .next t) ∨
      ∃ r e, s.request = some r ∧ decode r = .error e ∧ t = s.accept.takeError .illegalOp := by
  unfold step at h
  split at h
  · cases h; exact .inl ⟨‹_›, rfl⟩
  · split at h
    · exact .inr (.inl ⟨_, _, ‹_›, ‹_›, h⟩)
    · cases h; exact .inr (.inr ⟨_, _, ‹_›, ‹_›, rfl⟩)

end Sys2Proof.Machine
end

