-- ==== Sys2Proof/Laws/EvenStore.lean ====
section
/-! SUPPORT. A constant store that meets R10 with other ratios than the default's: they are linear in the tick, so that
what R10 asks of `rft` at every tick can be shown by a closed form. It meets every constraint but those on how well the
constants approximate. -/

namespace Sys2Proof.Machine

/-- `rft(-n) = (2^128 - 2n, 128)` and `rft(n) = (2^127 + n, 127)`; the ceiling is the largest that R10 admits. -/
def evenStore : Config where
  pow := Vector.ofFn fun i => ⟨2 ^ 128 - 2 * 2 ^ (i : Nat), 0⟩
  logBp := 0
  tickErrLow := 0
  tickErrHigh := 0
  minRatio := ⟨2 ^ 128 - 2 * 887272, 128⟩
  maxRatio := ⟨2 ^ 127 + 887272, 127⟩
  maxSafeVolume := 2 ^ 128 - 1

/-- The state after reset with that store. -/
def evenState : State := { State.reset with config := evenStore }

theorem evenStore_get (i : Fin 20) : evenStore.pow.get i = ⟨2 ^ 128 - 2 * 2 ^ (i : Nat), 0⟩ := by
  simp [evenStore, Vector.get]
  rfl

theorem evenStore_powerStep (n : Nat) (i : Fin 20) :
    powerStep evenStore n (2 ^ 128 - 2 * (n % 2 ^ (i : Nat)), 0) i = (2 ^ 128 - 2 * (n % 2 ^ (i + 1 : Nat)), 0) := by
  have hi : 2 ^ (i : Nat) ≤ 2 ^ 19 := Nat.pow_le_pow_right (by decide) (by omega)
  have hp : n % 2 ^ (i : Nat) < 2 ^ (i : Nat) := Nat.mod_lt _ (Nat.two_pow_pos _)
  have hb := Nat.mod_pow_succ (x := n) (b := 2) (k := i)
  unfold powerStep
  rw [evenStore_get]
  rcases Nat.mod_two_eq_zero_or_one (n / 2 ^ (i : Nat)) with hd | hd
  · rw [hd] at hb
    simp [Nat.testBit_eq_decide_div_mod_eq, hd, hb]
  · rw [hd] at hb
    rw [Nat.testBit_eq_decide_div_mod_eq, hd, if_pos (by decide)]
    dsimp only
    generalize 2 ^ (i : Nat) = w at *
    generalize n % w = p at *
    have hw : p * w ≤ 2 ^ 19 * 2 ^ 19 := Nat.mul_le_mul (by omega) hi
    have hm : (2 ^ 128 - 2 * p) * (2 ^ 128 - 2 * w) = (2 ^ 128 - 2 * (p + w)) * 2 ^ 128 + 4 * (p * w) := by
      obtain ⟨x, hx⟩ : ∃ x, 2 ^ 128 = 2 * p + 2 * w + x := ⟨2 ^ 128 - (2 * p + 2 * w), by omega⟩
      rw [hx, show 2 * p + 2 * w + x - 2 * p = 2 * w + x by omega, show 2 * p + 2 * w + x - 2 * w = 2 * p + x by omega,
        show 2 * p + 2 * w + x - 2 * (p + w) = x by omega]
      ring
    rw [hm, Nat.mul_comm _ (2 ^ 128), Nat.mul_add_div (by decide), Nat.div_eq_of_lt (by omega), hb]
    simp

theorem evenStore_power (n : Nat) (h : n < 2 ^ 20) : power evenStore n = (2 ^ 128 - 2 * n, 0) := by
  have h0 : powerStart evenStore n = (2 ^ 128 - 2 * (n % 2 ^ 1), 0) := by
    unfold powerStart
    rw [evenStore_get, Nat.testBit_zero]
    rcases Nat.mod_two_eq_zero_or_one n with e | e <;> simp [e]
  have hs := evenStore_powerStep n
  have e : n % 2 ^ 20 = n := Nat.mod_eq_of_lt h
  rw [power, h0, multiplierPositions]
  simp only [List.foldl_cons, List.foldl_nil]
  rw [show powerStep evenStore n (2 ^ 128 - 2 * (n % 2 ^ 1), 0) 1 = (2 ^ 128 - 2 * (n % 2 ^ 2), 0) from hs 1,
    show powerStep evenStore n (2 ^ 128 - 2 * (n % 2 ^ 2), 0) 2 = (2 ^ 128 - 2 * (n % 2 ^ 3), 0) from hs 2,
    show powerStep evenStore n (2 ^ 128 - 2 * (n % 2 ^ 3), 0) 3 = (2 ^ 128 - 2 * (n % 2 ^ 4), 0) from hs 3,
    show powerStep evenStore n (2 ^ 128 - 2 * (n % 2 ^ 4), 0) 4 = (2 ^ 128 - 2 * (n % 2 ^ 5), 0) from hs 4,
    show powerStep evenStore n (2 ^ 128 - 2 * (n % 2 ^ 5), 0) 5 = (2 ^ 128 - 2 * (n % 2 ^ 6), 0) from hs 5,
    show powerStep evenStore n (2 ^ 128 - 2 * (n % 2 ^ 6), 0) 6 = (2 ^ 128 - 2 * (n % 2 ^ 7), 0) from hs 6,
    show powerStep evenStore n (2 ^ 128 - 2 * (n % 2 ^ 7), 0) 7 = (2 ^ 128 - 2 * (n % 2 ^ 8), 0) from hs 7,
    show powerStep evenStore n (2 ^ 128 - 2 * (n % 2 ^ 8), 0) 8 = (2 ^ 128 - 2 * (n % 2 ^ 9), 0) from hs 8,
    show powerStep evenStore n (2 ^ 128 - 2 * (n % 2 ^ 9), 0) 9 = (2 ^ 128 - 2 * (n % 2 ^ 10), 0) from hs 9,
    show powerStep evenStore n (2 ^ 128 - 2 * (n % 2 ^ 10), 0) 10 = (2 ^ 128 - 2 * (n % 2 ^ 11), 0) from hs 10,
    show powerStep evenStore n (2 ^ 128 - 2 * (n % 2 ^ 11), 0) 11 = (2 ^ 128 - 2 * (n % 2 ^ 12), 0) from hs 11,
    show powerStep evenStore n (2 ^ 128 - 2 * (n % 2 ^ 12), 0) 12 = (2 ^ 128 - 2 * (n % 2 ^ 13), 0) from hs 12,
    show powerStep evenStore n (2 ^ 128 - 2 * (n % 2 ^ 13), 0) 13 = (2 ^ 128 - 2 * (n % 2 ^ 14), 0) from hs 13,
    show powerStep evenStore n (2 ^ 128 - 2 * (n % 2 ^ 14), 0) 14 = (2 ^ 128 - 2 * (n % 2 ^ 15), 0) from hs 14,
    show powerStep evenStore n (2 ^ 128 - 2 * (n % 2 ^ 15), 0) 15 = (2 ^ 128 - 2 * (n % 2 ^ 16), 0) from hs 15,
    show powerStep evenStore n (2 ^ 128 - 2 * (n % 2 ^ 16), 0) 16 = (2 ^ 128 - 2 * (n % 2 ^ 17), 0) from hs 16,
    show powerStep evenStore n (2 ^ 128 - 2 * (n % 2 ^ 17), 0) 17 = (2 ^ 128 - 2 * (n % 2 ^ 18), 0) from hs 17,
    show powerStep evenStore n (2 ^ 128 - 2 * (n % 2 ^ 18), 0) 18 = (2 ^ 128 - 2 * (n % 2 ^ 19), 0) from hs 18,
    show powerStep evenStore n (2 ^ 128 - 2 * (n % 2 ^ 19), 0) 19 = (2 ^ 128 - 2 * (n % 2 ^ 20), 0) from hs 19, e]

theorem evenStore_rft_pos (n : Nat) (h0 : 0 < n) (h : n ≤ 887272) : rft evenStore n = ⟨2 ^ 127 + n, 127⟩ := by
  have hr : reciprocal (2 ^ 128 - 2 * n) = 2 ^ 128 + 2 * n := by
    have hn : n * n ≤ 887272 * 887272 := Nat.mul_le_mul h h
    have hm : 2 ^ 256 - (2 ^ 128 - 2 * n) = (2 ^ 128 - 2 * n) * (2 ^ 128 + 2 * n - 1) + 4 * (n * n) := by
      obtain ⟨x, hx⟩ : ∃ x, 2 ^ 128 = 2 * n + 1 + x := ⟨2 ^ 128 - (2 * n + 1), by omega⟩
      rw [show 2 ^ 256 = 2 ^ 128 * 2 ^ 128 by norm_num, hx, show 2 * n + 1 + x - 2 * n = 1 + x by omega,
        show 2 * n + 1 + x + 2 * n - 1 = 4 * n + x by omega]
      rw [Nat.sub_eq_iff_eq_add (by nlinarith)]
      ring
    rw [reciprocal, hm, Nat.mul_add_div (by omega), Nat.div_eq_of_lt (by omega)]
    omega
  unfold rft
  rw [if_pos (by omega), Int.natAbs_natCast, evenStore_power n (by omega), hr,
    normalizeRatio_eq (p := 128) ⟨by omega, by omega⟩]
  simp only [mantissaAt127, Ratio.mk.injEq]
  exact ⟨by rw [if_neg (by decide)]; omega, by norm_num⟩

theorem evenStore_rft_neg (n : Nat) (h0 : 0 < n) (h : n ≤ 887272) :
    rft evenStore (-(n : Int)) = ⟨2 ^ 128 - 2 * n, 128⟩ := by
  unfold rft
  rw [if_neg (by omega), Int.natAbs_neg, Int.natAbs_natCast, evenStore_power n (by omega),
    normalizeRatio_eq (p := 127) ⟨by omega, by omega⟩]
  simp [mantissaAt127]

theorem evenStore_rft_zero : rft evenStore 0 = ⟨2 ^ 127, 127⟩ := by decide +kernel

/-- The ratio of any tick of that store, by the tick's sign. -/
theorem evenStore_rft (t : Int) (h : InTickRange t) :
    rft evenStore t = if 0 ≤ t then ⟨2 ^ 127 + t.toNat, 127⟩ else ⟨2 ^ 128 - 2 * (-t).toNat, 128⟩ := by
  obtain ⟨h1, h2⟩ := h
  unfold minTick at h1
  unfold maxTick at h2
  rcases Int.lt_trichotomy t 0 with ht | rfl | ht
  · rw [if_neg (by omega), ← evenStore_rft_neg _ (by omega) (by omega)]
    congr 1; omega
  · rw [evenStore_rft_zero]; rfl
  · rw [if_pos (by omega), ← evenStore_rft_pos _ (by omega) (by omega)]
    congr 1; omega

theorem evenStore_regular : Regular evenStore where
  wellFormed := by decide +kernel
  minCovered := by decide +kernel
  legal t h := by
    rw [evenStore_rft t h, Ratio.legal_iff]
    obtain ⟨h1, h2⟩ := h
    unfold minTick at h1
    unfold maxTick at h2
    split <;> simp only <;> omega
  increasing t h1 h2 := by
    rw [evenStore_rft t ⟨h1, by omega⟩, evenStore_rft (t + 1) ⟨by omega, by omega⟩, Ratio.lt_iff]
    unfold minTick at h1
    unfold maxTick at h2
    split <;> split <;> simp only [true_and] <;> omega

end Sys2Proof.Machine
end

