-- ==== Sys2Proof/Tests/Slice0.lean ====
section
/-! SUPPORT. The model's own tests. Expected values come from spec/95_test_vectors.md and from the encoding of
spec/30_encoding.md R61 and R64; the last section meets the hypotheses of the statements at boundary values. -/

namespace Sys2Proof.Tests

set_option maxRecDepth 20000
set_option exponentiation.threshold 1000
set_option Elab.async false

open Sys2Proof.Machine

/-- What one command answers right after reset. -/
def run (i : Instr) : Option Response := responseOf (exec i State.reset)

/-- The word of an integer below 0. -/
def neg (n : Nat) : Word := -(BitVec.ofNat 256 n)

/-! ### WellFormed: the default store passes, and a store that breaks one constraint is refused -/

theorem test_default_store_well_formed : Config.default.wellFormed = true := by decide +kernel

/-- An entry below `2^127` (R10). -/
theorem test_small_power_refused :
    let c := { Config.default with pow := Config.default.pow.set 5 (PowEntry.mk (2 ^ 127 - 1) 0) }
    c.powInRange = false ∧ c.wellFormed = false := by decide +kernel

/-- An entry of 129 bits (R10). -/
theorem test_large_power_refused :
    let c := { Config.default with pow := Config.default.pow.set 19 (PowEntry.mk (2 ^ 128) 75) }
    c.powInRange = false ∧ c.wellFormed = false := by decide +kernel

/-- `POW_SHIFT[0]` must be 0 (R10). -/
theorem test_first_shift_refused :
    let c := { Config.default with pow := Config.default.pow.set 0 (PowEntry.mk (2 ^ 127) 1) }
    c.firstShiftZero = false ∧ c.wellFormed = false := by decide +kernel

/-- Error margins that add up to `2^248` (R10). -/
theorem test_wide_errors_refused :
    let c := { Config.default with tickErrLow := 2 ^ 248 - 55 * 2 ^ 242 }
    c.errorsInRange = false ∧ c.wellFormed = false := by decide +kernel

/-- A sentinel that is not normalized (spec/93_implementation_defined.md I17). -/
theorem test_sentinel_refused :
    let c := { Config.default with maxRatio := Ratio.mk (2 ^ 128) 0 }
    c.sentinelsLegal = false ∧ c.wellFormed = false := by decide +kernel

/-- A volume ceiling of `2^128` (R10). -/
theorem test_volume_refused :
    let c := { Config.default with maxSafeVolume := 2 ^ 128 }
    c.volumeInRange = false ∧ c.wellFormed = false := by decide +kernel

/-- No command is ill formed: operands are whole words (R65). -/
theorem test_command_well_formed : (Instr.dto 0x200).wellFormed = true := rfl

/-! ### Decode: the request of each command written out as 130 hexadecimal digits (R61, R64) -/

theorem test_decode_shl :
    decode 0x00a000000000000000000000000000000000000000000000000000000000000001b000000000000000000000000000000000000000000000000000000000000002 =
      .ok (.shl 0xa000000000000000000000000000000000000000000000000000000000000001 0xb000000000000000000000000000000000000000000000000000000000000002) := rfl

theorem test_decode_shr :
    decode 0x01a000000000000000000000000000000000000000000000000000000000000001b000000000000000000000000000000000000000000000000000000000000002 =
      .ok (.shr 0xa000000000000000000000000000000000000000000000000000000000000001 0xb000000000000000000000000000000000000000000000000000000000000002) := rfl

theorem test_decode_not :
    decode 0x02a000000000000000000000000000000000000000000000000000000000000001b000000000000000000000000000000000000000000000000000000000000002 =
      .ok (.not 0xa000000000000000000000000000000000000000000000000000000000000001) := rfl

theorem test_decode_and :
    decode 0x03a000000000000000000000000000000000000000000000000000000000000001b000000000000000000000000000000000000000000000000000000000000002 =
      .ok (.and 0xa000000000000000000000000000000000000000000000000000000000000001 0xb000000000000000000000000000000000000000000000000000000000000002) := rfl

theorem test_decode_or :
    decode 0x04a000000000000000000000000000000000000000000000000000000000000001b000000000000000000000000000000000000000000000000000000000000002 =
      .ok (.or 0xa000000000000000000000000000000000000000000000000000000000000001 0xb000000000000000000000000000000000000000000000000000000000000002) := rfl

theorem test_decode_addu :
    decode 0x10a000000000000000000000000000000000000000000000000000000000000001b000000000000000000000000000000000000000000000000000000000000002 =
      .ok (.addu 0xa000000000000000000000000000000000000000000000000000000000000001 0xb000000000000000000000000000000000000000000000000000000000000002) := rfl

theorem test_decode_subu :
    decode 0x11a000000000000000000000000000000000000000000000000000000000000001b000000000000000000000000000000000000000000000000000000000000002 =
      .ok (.subu 0xa000000000000000000000000000000000000000000000000000000000000001 0xb000000000000000000000000000000000000000000000000000000000000002) := rfl

theorem test_decode_mulu :
    decode 0x12a000000000000000000000000000000000000000000000000000000000000001b000000000000000000000000000000000000000000000000000000000000002 =
      .ok (.mulu 0xa000000000000000000000000000000000000000000000000000000000000001 0xb000000000000000000000000000000000000000000000000000000000000002) := rfl

theorem test_decode_adds :
    decode 0x18a000000000000000000000000000000000000000000000000000000000000001b000000000000000000000000000000000000000000000000000000000000002 =
      .ok (.adds 0xa000000000000000000000000000000000000000000000000000000000000001 0xb000000000000000000000000000000000000000000000000000000000000002) := rfl

theorem test_decode_subs :
    decode 0x19a000000000000000000000000000000000000000000000000000000000000001b000000000000000000000000000000000000000000000000000000000000002 =
      .ok (.subs 0xa000000000000000000000000000000000000000000000000000000000000001 0xb000000000000000000000000000000000000000000000000000000000000002) := rfl

theorem test_decode_muls :
    decode 0x1aa000000000000000000000000000000000000000000000000000000000000001b000000000000000000000000000000000000000000000000000000000000002 =
      .ok (.muls 0xa000000000000000000000000000000000000000000000000000000000000001 0xb000000000000000000000000000000000000000000000000000000000000002) := rfl

theorem test_decode_ctz64 :
    decode 0x20a000000000000000000000000000000000000000000000000000000000000001b000000000000000000000000000000000000000000000000000000000000002 =
      .ok (.ctz64 0xa000000000000000000000000000000000000000000000000000000000000001) := rfl

theorem test_decode_fls :
    decode 0x21a000000000000000000000000000000000000000000000000000000000000001b000000000000000000000000000000000000000000000000000000000000002 =
      .ok (.fls 0xa000000000000000000000000000000000000000000000000000000000000001) := rfl

theorem test_decode_dfrom :
    decode 0x30a000000000000000000000000000000000000000000000000000000000000001b000000000000000000000000000000000000000000000000000000000000002 =
      .ok (.dfrom 0xa000000000000000000000000000000000000000000000000000000000000001) := rfl

theorem test_decode_dto :
    decode 0x31a000000000000000000000000000000000000000000000000000000000000001b000000000000000000000000000000000000000000000000000000000000002 =
      .ok (.dto 0xa000000000000000000000000000000000000000000000000000000000000001) := rfl

theorem test_decode_dmul :
    decode 0x32a000000000000000000000000000000000000000000000000000000000000001b000000000000000000000000000000000000000000000000000000000000002 =
      .ok (.dmul 0xa000000000000000000000000000000000000000000000000000000000000001 0xb000000000000000000000000000000000000000000000000000000000000002) := rfl

theorem test_decode_dmulup :
    decode 0x33a000000000000000000000000000000000000000000000000000000000000001b000000000000000000000000000000000000000000000000000000000000002 =
      .ok (.dmulup 0xa000000000000000000000000000000000000000000000000000000000000001 0xb000000000000000000000000000000000000000000000000000000000000002) := rfl

theorem test_decode_norm :
    decode 0x40a000000000000000000000000000000000000000000000000000000000000001b000000000000000000000000000000000000000000000000000000000000002 =
      .ok (.norm 0xa000000000000000000000000000000000000000000000000000000000000001 0xb000000000000000000000000000000000000000000000000000000000000002) := rfl

theorem test_decode_rft :
    decode 0x41a000000000000000000000000000000000000000000000000000000000000001b000000000000000000000000000000000000000000000000000000000000002 =
      .ok (.rft 0xa000000000000000000000000000000000000000000000000000000000000001) := rfl

theorem test_decode_tfnr :
    decode 0x42a000000000000000000000000000000000000000000000000000000000000001b000000000000000000000000000000000000000000000000000000000000002 =
      .ok (.tfnr 0xa000000000000000000000000000000000000000000000000000000000000001 0xb000000000000000000000000000000000000000000000000000000000000002) := rfl

theorem test_decode_tfr :
    decode 0x43a000000000000000000000000000000000000000000000000000000000000001b000000000000000000000000000000000000000000000000000000000000002 =
      .ok (.tfr 0xa000000000000000000000000000000000000000000000000000000000000001 0xb000000000000000000000000000000000000000000000000000000000000002) := rfl

theorem test_decode_rfv :
    decode 0x44a000000000000000000000000000000000000000000000000000000000000001b000000000000000000000000000000000000000000000000000000000000002 =
      .ok (.rfv 0xa000000000000000000000000000000000000000000000000000000000000001 0xb000000000000000000000000000000000000000000000000000000000000002) := rfl

theorem test_decode_tfv :
    decode 0x45a000000000000000000000000000000000000000000000000000000000000001b000000000000000000000000000000000000000000000000000000000000002 =
      .ok (.tfv 0xa000000000000000000000000000000000000000000000000000000000000001 0xb000000000000000000000000000000000000000000000000000000000000002) := rfl

theorem test_decode_ifo :
    decode 0x48a000000000000000000000000000000000000000000000000000000000000001b000000000000000000000000000000000000000000000000000000000000002 =
      .ok (.ifo 0xa000000000000000000000000000000000000000000000000000000000000001 0xb000000000000000000000000000000000000000000000000000000000000002) := rfl

theorem test_decode_ifoup :
    decode 0x49a000000000000000000000000000000000000000000000000000000000000001b000000000000000000000000000000000000000000000000000000000000002 =
      .ok (.ifoup 0xa000000000000000000000000000000000000000000000000000000000000001 0xb000000000000000000000000000000000000000000000000000000000000002) := rfl

theorem test_decode_ofi :
    decode 0x4aa000000000000000000000000000000000000000000000000000000000000001b000000000000000000000000000000000000000000000000000000000000002 =
      .ok (.ofi 0xa000000000000000000000000000000000000000000000000000000000000001 0xb000000000000000000000000000000000000000000000000000000000000002) := rfl

theorem test_decode_ofiup :
    decode 0x4ba000000000000000000000000000000000000000000000000000000000000001b000000000000000000000000000000000000000000000000000000000000002 =
      .ok (.ofiup 0xa000000000000000000000000000000000000000000000000000000000000001 0xb000000000000000000000000000000000000000000000000000000000000002) := rfl

/-- `0x05` is one past `OR` (95_test_vectors.md 2.6). -/
theorem test_decode_illegal : decode (Request.make 0x05 1 2) = .error (.unassignedOpcode 0x05) := by rfl

/-- `0x80` is not `SHL`: bit 7 of the field counts (R64). -/
theorem test_decode_bit7 : decode (Request.make 0x80 1 1) = .error (.unassignedOpcode 0x80) := by rfl

/-- The table's row of `TFV` is the one byte `0x45`; its operand bits are zero. -/
theorem test_table_word_tfv : decodeTableWord 8 0x45 = some (.tfv 0 0) := by rfl

theorem test_table_word_unassigned : decodeTableWord 8 0x47 = none := by rfl

/-- The next step runs the row's command. -/
theorem test_fetch_word : responseOf (step (State.reset.withFetchWord 8 0x20)) = some (.ok 64 0) := by decide +kernel

/-- The request of `ADDU 1, 2` as 95_test_vectors.md 2.6 prints it. -/
theorem test_encode_addu :
    encode (.addu 1 2) =
      0x1000000000000000000000000000000000000000000000000000000000000000010000000000000000000000000000000000000000000000000000000000000002 := by
  rfl

/-! ### One step of each command (95_test_vectors.md 2.1 to 2.6) -/

theorem test_shl_1 : run (.shl 4 0x8000000000000000000000000000000000000000000000000000000000000001) =
    some (.ok 16 0) := by decide +kernel

theorem test_shl_2 : run (.shl 256 1) =
    some (.ok 0 0) := by decide +kernel

theorem test_shr_1 : run (.shr 4 255) =
    some (.ok 15 0) := by decide +kernel

theorem test_shr_2 : run (.shr 255 0x8000000000000000000000000000000000000000000000000000000000000000) =
    some (.ok 1 0) := by decide +kernel

theorem test_not_1 : run (.not 240) =
    some (.ok 0xffffffffffffffffffffffffffffffffffffffffffffffffffffffffffffff0f 0) := by decide +kernel

theorem test_and_1 : run (.and 65280 4080) =
    some (.ok 3840 0) := by decide +kernel

theorem test_or_1 : run (.or 65280 4080) =
    some (.ok 65520 0) := by decide +kernel

theorem test_addu_1 : run (.addu 1 2) =
    some (.ok 3 0) := by decide +kernel

theorem test_addu_2 : run (.addu 0xffffffffffffffffffffffffffffffffffffffffffffffffffffffffffffffff 1) =
    some (.err .overflow) := by decide +kernel

theorem test_subu_1 : run (.subu 0x8000000000000000000000000000000000000000000000000000000000000000 1) =
    some (.ok 0x7fffffffffffffffffffffffffffffffffffffffffffffffffffffffffffffff 0) := by decide +kernel

theorem test_subu_2 : run (.subu 0 1) =
    some (.err .underflow) := by decide +kernel

theorem test_mulu_1 : run (.mulu 0xffffffffffffffffffffffffffffffff 0x100000000000000000000000000000001) =
    some (.ok 0xffffffffffffffffffffffffffffffffffffffffffffffffffffffffffffffff 0) := by decide +kernel

theorem test_mulu_2 : run (.mulu 0x100000000000000000000000000000000 0x100000000000000000000000000000000) =
    some (.err .overflow) := by decide +kernel

theorem test_adds_1 : run (.adds 0x8000000000000000000000000000000000000000000000000000000000000000 0x7fffffffffffffffffffffffffffffffffffffffffffffffffffffffffffffff) =
    some (.ok 0xffffffffffffffffffffffffffffffffffffffffffffffffffffffffffffffff 0) := by decide +kernel

theorem test_adds_2 : run (.adds 0x8000000000000000000000000000000000000000000000000000000000000000 0xffffffffffffffffffffffffffffffffffffffffffffffffffffffffffffffff) =
    some (.err .underflow) := by decide +kernel

theorem test_subs_1 : run (.subs 0xffffffffffffffffffffffffffffffffffffffffffffffffffffffffffffffff 0x8000000000000000000000000000000000000000000000000000000000000000) =
    some (.ok 0x7fffffffffffffffffffffffffffffffffffffffffffffffffffffffffffffff 0) := by decide +kernel

theorem test_subs_2 : run (.subs 0 0x8000000000000000000000000000000000000000000000000000000000000000) =
    some (.err .overflow) := by decide +kernel

theorem test_muls_1 : run (.muls 0xfffffffffffffffffffffffffffffffffffffffffffffffffffffffffffffffd 7) =
    some (.ok 0xffffffffffffffffffffffffffffffffffffffffffffffffffffffffffffffeb 0) := by decide +kernel

theorem test_muls_2 : run (.muls 0xc000000000000000000000000000000000000000000000000000000000000000 3) =
    some (.err .underflow) := by decide +kernel

theorem test_ctz64_1 : run (.ctz64 0x8000000000000000) =
    some (.ok 63 0) := by decide +kernel

theorem test_ctz64_2 : run (.ctz64 0x10000000000000000) =
    some (.ok 64 0) := by decide +kernel

theorem test_fls_1 : run (.fls 0x7fffffffffffffffffffffffffffffffffffffffffffffffffffffffffffffff) =
    some (.ok 254 0) := by decide +kernel

theorem test_fls_2 : run (.fls 0) =
    some (.ok 256 0) := by decide +kernel

theorem test_dfrom_1 : run (.dfrom 0x1c0003039) =
    some (.ok 131 0) := by decide +kernel

theorem test_dfrom_2 : run (.dfrom 0x100000000000000000000000000000000) =
    some (.err .invalidDensity) := by decide +kernel

theorem test_dto_1 : run (.dto 511) =
    some (.ok 0xe0000000000000000000000000000000 0) := by decide +kernel

theorem test_dto_2 : run (.dto 4) =
    some (.err .invalidDensity) := by decide +kernel

theorem test_dmul_1 : run (.dmul 120 1003) =
    some (.ok 250 0) := by decide +kernel

theorem test_dmul_2 : run (.dmul 511 0x124924924924924924924924924924925) =
    some (.err .overflow) := by decide +kernel

theorem test_dmulup_1 : run (.dmulup 120 1001) =
    some (.ok 251 0) := by decide +kernel

theorem test_dmulup_2 : run (.dmulup 4 100) =
    some (.err .invalidDensity) := by decide +kernel

theorem test_norm_1 : run (.norm 3 0) =
    some (.ok 0xc0000000000000000000000000000000 126) := by decide +kernel

theorem test_norm_2 : run (.norm 0xffffffffffffffffffffffffffffffffffffffffffffffffffffffffffffffff 127) =
    some (.err .tickTooHigh) := by decide +kernel

theorem test_rft_1 : run (.rft 1) =
    some (.ok 0x800346dc5d63886594af4f0d844d013a 127) := by decide +kernel

theorem test_rft_2 : run (.rft 887273) =
    some (.err .tickTooHigh) := by decide +kernel

theorem test_tfnr_1 : run (.tfnr 0x800346dc5d63886594af4f0d844d013a 127) =
    some (.ok 1 0) := by decide +kernel

theorem test_tfnr_2 : run (.tfnr 0x40000000000000000000000000000000 100) =
    some (.err .badOperand) := by decide +kernel

theorem test_tfr_1 : run (.tfr 3 1) =
    some (.ok 4054 0) := by decide +kernel

theorem test_tfr_2 : run (.tfr 0 0) =
    some (.err .zeroMantissa) := by decide +kernel

theorem test_rfv_1 : run (.rfv 3 7) =
    some (.ok 0xdb6db6db6db6db6db6db6db6db6db6da 129) := by decide +kernel

theorem test_rfv_2 : run (.rfv 0x80000000000000000000000000000000 0) =
    some (.err .volumeTooLarge) := by decide +kernel

theorem test_tfv_1 : run (.tfv 1 2) =
    some (.ok 0xffffffffffffffffffffffffffffffffffffffffffffffffffffffffffffe4ec 0) := by decide +kernel

theorem test_tfv_2 : run (.tfv 0 0) =
    some (.ok 887272 0) := by decide +kernel

theorem test_ifo_1 : run (.ifo 6931 0xde0b6b3a7640000) =
    some (.ok 0x1bc0d88e4a5ae88d 0) := by decide +kernel

theorem test_ifo_2 : run (.ifo 0 0x200000000000000000000000000000000) =
    some (.err .overflow) := by decide +kernel

theorem test_ifoup_1 : run (.ifoup 6931 0xde0b6b3a7640000) =
    some (.ok 0x1bc0d88e4a5ae88e 0) := by decide +kernel

theorem test_ifoup_2 : run (.ifoup 0xfffffffffffffffffffffffffffffffffffffffffffffffffffffffffff27617 1) =
    some (.err .tickTooLow) := by decide +kernel

theorem test_ofi_1 : run (.ofi 6931 0xde0b6b3a7640000) =
    some (.ok 0x6f08090dc60e47f 0) := by decide +kernel

theorem test_ofi_2 : run (.ofi 887272 0x100000000000000000000000000000000) =
    some (.ok 1 0) := by decide +kernel

theorem test_ofiup_1 : run (.ofiup 1 10000) =
    some (.ok 10000 0) := by decide +kernel

theorem test_ofiup_2 : run (.ofiup 0xfffffffffffffffffffffffffffffffffffffffffffffffffffffffffff27618 0xffffffffffffffffffffffffffffffffffffffffffffffffffffffffffffffff) =
    some (.err .overflow) := by decide +kernel

/-- The trap of the unit: an unassigned opcode is answered `IllegalOp`, whose vector is `15 * 2^512` (R66, R62). -/
theorem test_illegal_opcode :
    responseOf (step (State.reset.present (Request.make 0x4C 0 1))) = some (.err .illegalOp) ∧
      (Response.err .illegalOp).pack = 0xF00000000000000000000000000000000000000000000000000000000000000000000000000000000000000000000000000000000000000000000000000000000 := by
  decide +kernel

/-- The response of `RFT 0` as 95_test_vectors.md 2.6 prints it. -/
theorem test_response_vector :
    (responseOf (step (State.reset.present (encode (.rft 0))))).map Response.pack =
      some 0x00000000000000000000000000000000080000000000000000000000000000000000000000000000000000000000000000000000000000000000000000000007f := by
  decide +kernel

/-- The pipeline of R173 gives the tick of `95_test_vectors.md` for `TFV 2, 1`. -/
theorem test_log_pipeline : tickByLog Config.default (volumeRatio 2 1) = 6931 := by decide +kernel

/-- A store whose table breaks R10 stops `RFT` by name (spec/93_implementation_defined.md I17). -/
theorem test_store_outside_domain :
    let c := { Config.default with pow := Config.default.pow.set 19 (PowEntry.mk (2 ^ 127) 1000) }
    exec (.rft 524288) { State.reset with config := c } = .refused .constantStoreOutsideDomain := rfl

/-- Outside the ratio range of its store `TFV` answers a result whose tick is free, where the script of TFV2 stops. -/
theorem test_tfv_outside_ratio_range :
    ¬ InRatioRange evenStore (volumeRatio 1 2) ∧
      (∃ t : Int, exec (.tfv 1 2) evenState = .next (evenState.deliver (.ok (wordS t) 0))) ∧
      runScript (tfv2Script 1 2) evenState [] = .stopped .tickTooLow [2 ^ 127, 128] :=
  ⟨by unfold InRatioRange; decide +kernel, ⟨_, rfl⟩, by decide +kernel⟩

/-- The default store with the largest ceiling that R10 and D20 admit. -/
def highCeiling : State := { State.reset with config := { Config.default with maxSafeVolume := 2 ^ 128 - 1 } }

/-- No unit can meet R76 beside R174, R176 and R202 under every store that R10 admits: under this one the sentinel ratios
are as R76 asks, RFV answers the pair that R176 computes, TFNR on it answers `tooLow` by R174, so that the script of TFV2
stops with a status that R202 never allows TFV (log entry 19). -/
theorem test_r76_asks_a_status_that_r202_excludes :
    highCeiling.config.wellFormed = true ∧ SentinelsAreExtreme highCeiling.config ∧
      runScript (tfv2Script 1 0xffffffffffffffffffffffffffffffff) highCeiling [] = .stopped .tickTooLow [2 ^ 127, 255] ∧
      some .tickTooLow ∉ allowedStatuses (.tfv 1 0xffffffffffffffffffffffffffffffff) := by
  unfold SentinelsAreExtreme; decide +kernel

/-- The search takes the 21 evaluations of `rft` that R242 counts also where the least tick is the answer. -/
theorem test_least_tick : tfnr Config.default Config.default.minRatio = .ok (-887272) := by decide +kernel

/-! ### The hypotheses of the statements are met, clause by clause, at boundary values -/

theorem witness_ShlIsProductModuloWord :
    256 ≤ (256 : Word).toNat ∧ (0 : Word) = 0 := by decide +kernel

theorem witness_ShrIsFloorQuotient :
    256 ≤ (256 : Word).toNat ∧ (1 : Word) ≠ 0 := by decide +kernel

theorem witness_NotInvertsAllBits :
    255 < 256 := by decide +kernel

theorem witness_AndOrActBitByBit :
    255 < 256 := by decide +kernel

theorem witness_AdduIsExactOrOverflows :
    (neg 1).toNat + (0 : Word).toNat < 2 ^ 256 ∧
    2 ^ 256 ≤ (neg 1).toNat + (1 : Word).toNat := by decide +kernel

theorem witness_SubuIsExactOrUnderflows :
    (5 : Word).toNat ≤ (5 : Word).toNat ∧ (0 : Word).toNat < (1 : Word).toNat := by decide +kernel

theorem witness_MuluIsExactOrOverflows :
    (0xffffffffffffffffffffffffffffffff : Word).toNat * (0x100000000000000000000000000000001 : Word).toNat < 2 ^ 256 ∧
    2 ^ 256 ≤ (0x100000000000000000000000000000000 : Word).toNat * (0x100000000000000000000000000000000 : Word).toNat := by decide +kernel

theorem witness_AddsIsExactOrLeavesTheRange :
    -2 ^ 255 ≤ (neg (2 ^ 255)).toInt + ((0 : Word)).toInt ∧
      (neg (2 ^ 255)).toInt + ((0 : Word)).toInt < 2 ^ 255 ∧
      -2 ^ 255 ≤ (((0x7fffffffffffffffffffffffffffffffffffffffffffffffffffffffffffffff : Word))).toInt + ((0 : Word)).toInt ∧
      (((0x7fffffffffffffffffffffffffffffffffffffffffffffffffffffffffffffff : Word))).toInt + ((0 : Word)).toInt < 2 ^ 255 ∧
      2 ^ 255 ≤ (((0x7fffffffffffffffffffffffffffffffffffffffffffffffffffffffffffffff : Word))).toInt + ((1 : Word)).toInt ∧
      (neg (2 ^ 255)).toInt + (neg 1).toInt < -2 ^ 255 := by decide +kernel

theorem witness_SubsIsExactOrLeavesTheRange :
    -2 ^ 255 ≤ (neg (2 ^ 255)).toInt - ((0 : Word)).toInt ∧
      (neg (2 ^ 255)).toInt - ((0 : Word)).toInt < 2 ^ 255 ∧
      -2 ^ 255 ≤ (((0x7fffffffffffffffffffffffffffffffffffffffffffffffffffffffffffffff : Word))).toInt - ((0 : Word)).toInt ∧
      (((0x7fffffffffffffffffffffffffffffffffffffffffffffffffffffffffffffff : Word))).toInt - ((0 : Word)).toInt < 2 ^ 255 ∧
      2 ^ 255 ≤ (((0x7fffffffffffffffffffffffffffffffffffffffffffffffffffffffffffffff : Word))).toInt - (neg 1).toInt ∧
      (neg (2 ^ 255)).toInt - ((1 : Word)).toInt < -2 ^ 255 := by decide +kernel

theorem witness_MulsIsExactOrLeavesTheRange :
    -2 ^ 255 ≤ (neg (2 ^ 255)).toInt * ((1 : Word)).toInt ∧
      (neg (2 ^ 255)).toInt * ((1 : Word)).toInt < 2 ^ 255 ∧
      -2 ^ 255 ≤ (((0x7fffffffffffffffffffffffffffffffffffffffffffffffffffffffffffffff : Word))).toInt * ((1 : Word)).toInt ∧
      (((0x7fffffffffffffffffffffffffffffffffffffffffffffffffffffffffffffff : Word))).toInt * ((1 : Word)).toInt < 2 ^ 255 ∧
      2 ^ 255 ≤ (neg (2 ^ 255)).toInt * (neg 1).toInt ∧
      (neg 0x2aaaaaaaaaaaaaaaaaaaaaaaaaaaaaaaaaaaaaaaaaaaaaaaaaaaaaaaaaaaaaab).toInt * ((3 : Word)).toInt < -2 ^ 255 := by decide +kernel

theorem witness_WrappingAndCheckedFamiliesAgree :
    (255 : Word).toNat < 256 ∧ (1 : Word).toNat * 2 ^ (255 : Word).toNat < 2 ^ 256 := by decide +kernel

theorem witness_CtzIsLeastSetBitOfLowHalf :
    run (.ctz64 0x8000000000000000) = some (.ok 63 0) ∧ (63 : Word).toNat < 64 ∧ 62 < (63 : Word).toNat := by decide +kernel

theorem witness_FlsIsGreatestSetBit :
    (0 : Word) = 0 ∧ (neg (2 ^ 255)) ≠ 0 ∧ run (.fls (neg (2 ^ 255))) = some (.ok 255 0) ∧ (255 : Word).toNat < 256 := by decide +kernel

theorem witness_BisectionFormsMeetTheContract :
    2 ^ 256 - 1 < 2 ^ 256 := by decide +kernel

theorem witness_DfromEncodesOrRejects :
    2 ^ 128 ≤ (0x100000000000000000000000000000000 : Word).toNat ∧ (0xffffffffffffffffffffffffffffffff : Word).toNat < 2 ^ 128 ∧
      4 ≤ (0xffffffffffffffffffffffffffffffff : Word).toNat ∧ LeadingBit (0xffffffffffffffffffffffffffffffff : Word).toNat 127 ∧
      (4 : Word).toNat < 2 ^ 128 ∧ 4 ≤ (4 : Word).toNat ∧ LeadingBit (4 : Word).toNat 2 ∧
      (3 : Word).toNat < 2 ^ 128 ∧ (3 : Word).toNat ≤ 3 := by
  unfold LeadingBit; decide +kernel

theorem witness_DtoDecodesOrRejects :
    CanonicalDensity (3 : Word).toNat ∧ CanonicalDensity (8 : Word).toNat ∧ CanonicalDensity (511 : Word).toNat ∧
      ¬ CanonicalDensity (4 : Word).toNat ∧ ¬ CanonicalDensity (7 : Word).toNat ∧
      ¬ CanonicalDensity (512 : Word).toNat := by
  unfold CanonicalDensity; decide +kernel

theorem witness_DmulIsFloorOfProduct :
    ¬ CanonicalDensity (4 : Word).toNat ∧ ¬ CanonicalDensity (512 : Word).toNat ∧
      CanonicalDensity (8 : Word).toNat ∧
      2 ^ 256 ≤ densityValue (8 : Word).toNat * (0x4000000000000000000000000000000000000000000000000000000000000000 : Word).toNat ∧
      CanonicalDensity (3 : Word).toNat ∧
      densityValue (3 : Word).toNat * (0x5555555555555555555555555555555555555555555555555555555555555555 : Word).toNat < 2 ^ 256 := by
  unfold CanonicalDensity; decide +kernel

theorem witness_DmulupIsCeilingOfProduct :
    ¬ CanonicalDensity (4 : Word).toNat ∧ ¬ CanonicalDensity (512 : Word).toNat ∧
      CanonicalDensity (8 : Word).toNat ∧
      2 ^ 256 ≤ densityValue (8 : Word).toNat * (0x4000000000000000000000000000000000000000000000000000000000000000 : Word).toNat ∧
      CanonicalDensity (3 : Word).toNat ∧
      densityValue (3 : Word).toNat * (0x5555555555555555555555555555555555555555555555555555555555555555 : Word).toNat < 2 ^ 256 := by
  unfold CanonicalDensity; decide +kernel

theorem witness_DensityRoundTripLosesAtMostAFifth :
    (0xffffffffffffffffffffffffffffffff : Word).toNat < 2 ^ 128 := by decide +kernel

theorem witness_DensityCodecIsMonotoneAndFaithful :
    CanonicalDensity (511 : Word).toNat ∧
      (CanonicalDensity (3 : Word).toNat ∧ CanonicalDensity (8 : Word).toNat ∧ (3 : Word).toNat < (8 : Word).toNat) ∧
      (3 : Word).toNat ≤ (4 : Word).toNat ∧ (0xffffffffffffffffffffffffffffffff : Word).toNat < 2 ^ 128 := by
  unfold CanonicalDensity; decide +kernel

theorem witness_NormNormalizesOrFailsInOrder :
    (0 : Word) = 0 ∧
      (LeadingBit (0x100000000000000000000000000000000 : Word).toNat 128 ∧ ((0 : Word).toNat : Int) + 127 - (128 : Nat) < 0) ∧
      (LeadingBit (0x40000000000000000000000000000000 : Word).toNat 126 ∧ 2 ^ 256 ≤ ((neg 1).toNat : Int) + 127 - (126 : Nat)) ∧
      (LeadingBit (0x80000000000000000000000000000000 : Word).toNat 127 ∧ 0 ≤ ((0 : Word).toNat : Int) + 127 - (127 : Nat) ∧
        ((neg 1).toNat : Int) + 127 - (127 : Nat) < 2 ^ 256) := by
  unfold LeadingBit; decide +kernel

theorem witness_ReciprocalStepIsFloorOfReciprocal :
    1 ≤ 1 ∧ 2 ^ 256 - 1 < 2 ^ 256 ∧ reciprocal (2 ^ 256 - 1) = 1 ∧ reciprocal 1 = 2 ^ 256 := by decide +kernel

theorem witness_RftAnswersTheRatioOfTheTick :
    (neg 887273).toInt < -887272 ∧ 887272 < (887273 : Word).toInt ∧
      InTickRange (neg 887272).toInt ∧ (rft State.reset.config (neg 887272).toInt).legal = true ∧
      InTickRange (887272 : Word).toInt ∧ (rft State.reset.config (887272 : Word).toInt).legal = true := by
  unfold InTickRange; decide +kernel

theorem witness_DefaultRatiosAreLegalAndIncreasing :
    minTick ≤ minTick ∧ minTick < maxTick ∧ maxTick - 1 < maxTick ∧ InTickRange minTick ∧ InTickRange maxTick := by
  unfold InTickRange; decide +kernel

theorem witness_DefaultRatiosApproximatePowers :
    887272 ≤ 887272 := by decide +kernel

theorem witness_TfnrIsTheFloorTickOrFailsInOrder :
    (Ratio.mk (0x800276a52a62a71c29fc1cc441e523bb : Word).toNat (255 : Word).toNat).lt State.reset.config.minRatio = true ∧
      (Ratio.mk (0xfffb12cdf1087799c03e5a811a7aaa1d : Word).toNat (0 : Word).toNat).lt State.reset.config.minRatio = false ∧ State.reset.config.maxRatio.lt (Ratio.mk (0xfffb12cdf1087799c03e5a811a7aaa1d : Word).toNat (0 : Word).toNat) = true ∧
      InRatioRange State.reset.config (Ratio.mk (0x7fffffffffffffffffffffffffffffff : Word).toNat (127 : Word).toNat) ∧ (0x7fffffffffffffffffffffffffffffff : Word).toNat < 2 ^ 127 ∧
      InRatioRange State.reset.config (Ratio.mk (0x100000000000000000000000000000000 : Word).toNat (127 : Word).toNat) ∧ 2 ^ 128 ≤ (0x100000000000000000000000000000000 : Word).toNat ∧
      InRatioRange State.reset.config (Ratio.mk (0x800276a52a62a71c29fc1cc441e523bc : Word).toNat (255 : Word).toNat) ∧ 2 ^ 127 ≤ (0x800276a52a62a71c29fc1cc441e523bc : Word).toNat ∧ (0x800276a52a62a71c29fc1cc441e523bc : Word).toNat < 2 ^ 128 ∧
      (rft State.reset.config minTick).le State.reset.config.minRatio = true := by
  unfold InRatioRange; decide +kernel

theorem witness_TfnrIsTheGreatestTick :
    State.reset.config = Config.default ∧
      (Ratio.mk (0x800276a52a62a71c29fc1cc441e523bc : Word).toNat (255 : Word).toNat).normalized = true ∧ InRatioRange Config.default (Ratio.mk (0x800276a52a62a71c29fc1cc441e523bc : Word).toNat (255 : Word).toNat) ∧
      (Ratio.mk (0xfffb12cdf1087799c03e5a811a7aaa1c : Word).toNat (0 : Word).toNat).normalized = true ∧ InRatioRange Config.default (Ratio.mk (0xfffb12cdf1087799c03e5a811a7aaa1c : Word).toNat (0 : Word).toNat) ∧ InTickRange maxTick ∧
      Regular evenState.config ∧ (Ratio.mk (0x80000000000000000000000000000000 : Word).toNat (127 : Word).toNat).normalized = true ∧ InRatioRange evenState.config (Ratio.mk (0x80000000000000000000000000000000 : Word).toNat (127 : Word).toNat) := by
  refine ⟨rfl, ?_, ?_, ?_, ?_, ?_, evenStore_regular, ?_⟩ <;>
    first | decide +kernel | (unfold InTickRange; decide +kernel) | (unfold InRatioRange; decide +kernel)

theorem witness_DefaultTickRatioRoundTrip :
    State.reset.config = Config.default ∧ InTickRange minTick ∧ InTickRange maxTick := by
  unfold InTickRange; decide +kernel

theorem witness_LogDigitsStayBelowTheLogarithm :
    2 ^ 127 ≤ 2 ^ 127 ∧ 2 ^ 128 - 1 < 2 ^ 128 ∧ 255 ≤ 255 := by decide +kernel

theorem witness_DefaultLogPipelineMeetsTheDefinition :
    Config.default.minRatio.normalized = true ∧ InRatioRange Config.default Config.default.minRatio ∧
      Config.default.maxRatio.normalized = true ∧ InRatioRange Config.default Config.default.maxRatio := by
  unfold InRatioRange; decide +kernel

theorem witness_TfrAnswersTheFloorTick :
    LeadingBit (1 : Word).toNat 0 ∧
      mantissaAt127 (1 : Word).toNat 0 = 2 ^ 127 ∧ InRatioRange State.reset.config (Ratio.mk (2 ^ 127) (((0 : Word).toNat : Int) + 127 - (0 : Nat))) ∧
      LeadingBit (0xfffb12cdf1087799c03e5a811a7aaa1c : Word).toNat 127 ∧ mantissaAt127 (0xfffb12cdf1087799c03e5a811a7aaa1c : Word).toNat 127 = 0xfffb12cdf1087799c03e5a811a7aaa1c ∧
      InRatioRange State.reset.config (Ratio.mk 0xfffb12cdf1087799c03e5a811a7aaa1c (((0 : Word).toNat : Int) + 127 - (127 : Nat))) ∧
      0 ≤ ((0 : Word).toNat : Int) + 127 - (127 : Nat) ∧ ((0 : Word).toNat : Int) + 127 - (0 : Nat) < 2 ^ 256 ∧
      (rft State.reset.config minTick).le State.reset.config.minRatio = true := by
  unfold LeadingBit InRatioRange; decide +kernel

theorem witness_RfvAnswersTheNormalizedQuotient :
    State.reset.config.maxSafeVolume < (0x80000000000000000000000000000000 : Word).toNat ∧
      (0x7fffffffffffffffffffffffffffffff : Word).toNat ≤ State.reset.config.maxSafeVolume ∧ State.reset.config.wellFormed = true ∧
      ((0 : Word) = 0 ∧ (0x7fffffffffffffffffffffffffffffff : Word) ≠ 0) := by decide +kernel

theorem witness_TfvAnswersTheTickOfTheQuotient :
    State.reset.config.maxSafeVolume < (0x80000000000000000000000000000000 : Word).toNat ∧
      (0x7fffffffffffffffffffffffffffffff : Word).toNat ≤ State.reset.config.maxSafeVolume ∧ (0 : Word) = 0 ∧ (0x7fffffffffffffffffffffffffffffff : Word) ≠ 0 ∧
      LeadingBit ((1 : Word).toNat * 2 ^ 128 / (0x7fffffffffffffffffffffffffffffff : Word).toNat) 1 ∧
      InRatioRange State.reset.config (Ratio.mk (mantissaAt127 ((1 : Word).toNat * 2 ^ 128 / (0x7fffffffffffffffffffffffffffffff : Word).toNat) 1) 254) ∧ (rft State.reset.config minTick).le (Ratio.mk (mantissaAt127 ((1 : Word).toNat * 2 ^ 128 / (0x7fffffffffffffffffffffffffffffff : Word).toNat) 1) 254) = true ∧
      LeadingBit ((0x7fffffffffffffffffffffffffffffff : Word).toNat * 2 ^ 128 / (1 : Word).toNat) 254 ∧
      InRatioRange State.reset.config (Ratio.mk (mantissaAt127 ((0x7fffffffffffffffffffffffffffffff : Word).toNat * 2 ^ 128 / (1 : Word).toNat) 254) 1) ∧ (rft State.reset.config minTick).le (Ratio.mk (mantissaAt127 ((0x7fffffffffffffffffffffffffffffff : Word).toNat * 2 ^ 128 / (1 : Word).toNat) 254) 1) = true ∧
      (2 : Word).toNat ≤ evenState.config.maxSafeVolume ∧
      LeadingBit ((1 : Word).toNat * 2 ^ 128 / (2 : Word).toNat) 127 ∧
      ¬ InRatioRange evenState.config (Ratio.mk (mantissaAt127 ((1 : Word).toNat * 2 ^ 128 / (2 : Word).toNat) 127) 128) := by
  unfold LeadingBit InRatioRange; decide +kernel

theorem witness_IfoAppliesTheRatioRoundingDown :
    (neg 887273).toInt < -887272 ∧ 887272 < (887273 : Word).toInt ∧
      InTickRange (neg 887272).toInt ∧ (rft State.reset.config ((neg 887272).toInt)).legal = true ∧ InTickRange (887272 : Word).toInt ∧ (rft State.reset.config ((887272 : Word).toInt)).legal = true ∧
      InTickRange (0 : Word).toInt ∧ (rft State.reset.config ((0 : Word).toInt)).legal = true ∧
      2 ^ 256 ≤ (rft State.reset.config ((0 : Word).toInt)).mantissa * (0x200000000000000000000000000000000 : Word).toNat ∧
      (rft State.reset.config ((0 : Word).toInt)).mantissa * (0x1ffffffffffffffffffffffffffffffff : Word).toNat < 2 ^ 256 := by
  unfold InTickRange; decide +kernel

theorem witness_IfoupAppliesTheRatioRoundingUp :
    (neg 887273).toInt < -887272 ∧ 887272 < (887273 : Word).toInt ∧
      InTickRange (neg 887272).toInt ∧ (rft State.reset.config ((neg 887272).toInt)).legal = true ∧ InTickRange (887272 : Word).toInt ∧ (rft State.reset.config ((887272 : Word).toInt)).legal = true ∧
      InTickRange (0 : Word).toInt ∧ (rft State.reset.config ((0 : Word).toInt)).legal = true ∧
      2 ^ 256 ≤ (rft State.reset.config ((0 : Word).toInt)).mantissa * (0x200000000000000000000000000000000 : Word).toNat ∧
      (rft State.reset.config ((0 : Word).toInt)).mantissa * (0x1ffffffffffffffffffffffffffffffff : Word).toNat < 2 ^ 256 := by
  unfold InTickRange; decide +kernel

theorem witness_OfiAppliesTheNegatedTickRoundingDown :
    (neg 887273).toInt < -887272 ∧ 887272 < (887273 : Word).toInt ∧
      InTickRange (neg 887272).toInt ∧ (rft State.reset.config (-(neg 887272).toInt)).legal = true ∧ InTickRange (887272 : Word).toInt ∧ (rft State.reset.config (-(887272 : Word).toInt)).legal = true ∧
      InTickRange (0 : Word).toInt ∧ (rft State.reset.config (-(0 : Word).toInt)).legal = true ∧
      2 ^ 256 ≤ (rft State.reset.config (-(0 : Word).toInt)).mantissa * (0x200000000000000000000000000000000 : Word).toNat ∧
      (rft State.reset.config (-(0 : Word).toInt)).mantissa * (0x1ffffffffffffffffffffffffffffffff : Word).toNat < 2 ^ 256 := by
  unfold InTickRange; decide +kernel

theorem witness_OfiupAppliesTheNegatedTickRoundingUp :
    (neg 887273).toInt < -887272 ∧ 887272 < (887273 : Word).toInt ∧
      InTickRange (neg 887272).toInt ∧ (rft State.reset.config (-(neg 887272).toInt)).legal = true ∧ InTickRange (887272 : Word).toInt ∧ (rft State.reset.config (-(887272 : Word).toInt)).legal = true ∧
      InTickRange (0 : Word).toInt ∧ (rft State.reset.config (-(0 : Word).toInt)).legal = true ∧
      2 ^ 256 ≤ (rft State.reset.config (-(0 : Word).toInt)).mantissa * (0x200000000000000000000000000000000 : Word).toNat ∧
      (rft State.reset.config (-(0 : Word).toInt)).mantissa * (0x1ffffffffffffffffffffffffffffffff : Word).toNat < 2 ^ 256 := by
  unfold InTickRange; decide +kernel

theorem witness_OutboundConversionIsInboundOfNegatedTick :
    InTickRange (-887272) ∧ InTickRange 887272 := by
  unfold InTickRange; decide +kernel

theorem witness_UpConversionsExceedDownByAtMostOne :
    InTickRange (887272 : Word).toInt ∧ (rft State.reset.config (887272 : Word).toInt).legal = true ∧
      (rft State.reset.config (-(887272 : Word).toInt)).legal = true ∧
      InTickRange (neg 887272).toInt ∧ (rft State.reset.config (neg 887272).toInt).legal = true ∧
      (rft State.reset.config (-(neg 887272).toInt)).legal = true := by
  unfold InTickRange; decide +kernel

theorem witness_ConversionsAreMonotone :
    State.reset.config = Config.default ∧ Regular evenState.config ∧
      (InTickRange (-1) ∧ InTickRange 1 ∧ (-1 : Int) ≤ 1 ∧ (10000 : Word).toNat ≤ (10000 : Word).toNat) ∧
      run (.ifo (wordS (-1)) 10000) = some (.ok 9999 0) ∧ run (.ifo (wordS 1) 10000) = some (.ok 10000 0) ∧
      run (.ifoup (wordS (-1)) 10000) = some (.ok 10000 0) ∧ run (.ifoup (wordS 1) 10000) = some (.ok 10001 0) ∧
      run (.ofi (wordS 1) 10000) = some (.ok 9999 0) ∧ run (.ofi (wordS (-1)) 10000) = some (.ok 10000 0) ∧
      run (.ofiup (wordS 1) 10000) = some (.ok 10000 0) ∧ run (.ofiup (wordS (-1)) 10000) = some (.ok 10001 0) := by
  refine ⟨rfl, evenStore_regular, ?_⟩
  unfold InTickRange; decide +kernel

theorem witness_DecodeOfEncodeIsTheCommand :
    (Instr.ofiup 1 2).wellFormed = true ∧ (Instr.not 0).wellFormed = true := by decide +kernel

theorem witness_EncodeOfDecodeIsTheRequest :
    decode (Request.make 0x02 7 9) = .ok (.not 7) ∧ decode (Request.make 0x4B 7 9) = .ok (.ofiup 7 9) := by decide +kernel

theorem witness_StepRunsTheDecodedCommand :
    (State.reset.present (encode (.addu 1 2))).request = some (encode (.addu 1 2)) ∧
      decode (encode (.addu 1 2)) = .ok (.addu 1 2) ∧ (Instr.addu 1 2).wellFormed = true ∧
      State.reset.request = none := by decide +kernel

theorem witness_UnassignedOpcodeAnswersIllegalOp :
    0x05 ∉ assignedOpcodes ∧ 0x4C ∉ assignedOpcodes ∧ 0xFF ∉ assignedOpcodes := by decide +kernel

theorem witness_IgnoredOperandDoesNotAffectTheStep :
    0x02 ∈ oneOperandOpcodes ∧ 0x41 ∈ oneOperandOpcodes := by decide +kernel

theorem witness_StepKeepsTheConstantStoreSound :
    ∃ t, step (State.reset.present (encode (.subu 0 1))) = .next t ∧
      (State.reset.present (encode (.subu 0 1))).storeSound = true ∧
      (State.reset.present (encode (.subu 0 1))).request.isSome = true := ⟨_, rfl, by decide +kernel, rfl⟩

theorem witness_CommandsGiveOnlyTheirStatuses :
    ∃ t, exec (.tfnr 0 127) State.reset = .next t := ⟨_, rfl⟩

theorem witness_ResponseDependsOnRequestAndStoreOnly :
    (State.reset.present (encode (.not 1))).config = ((State.reset.deliver (.ok 1 2)).present (encode (.not 1))).config ∧
      (State.reset.present (encode (.not 1))).request = some (encode (.not 1)) ∧
      ((State.reset.deliver (.ok 1 2)).present (encode (.not 1))).request = some (encode (.not 1)) := ⟨rfl, rfl, rfl⟩

theorem witness_StoresThatMeetR10AnswerEveryRequest :
    State.reset.config = Config.default ∧ Regular evenState.config := ⟨rfl, evenStore_regular⟩

theorem witness_ScriptPseudoCommandsMatchTheirCommands :
    (ScriptLine.mk 0x11 (.literal 0) (.name 1)).request [7, 1] = some (Request.make 0x11 0 1) ∧
      responseOf (transact State.reset (Request.make 0x11 0 1)) = some (.err .underflow) ∧
      (ScriptLine.mk 0x10 (.name 0) (.name 0)).request [7] = some (Request.make 0x10 7 7) ∧
      (∃ t, transact State.reset (Request.make 0x10 7 7) = .next t ∧ t.response = some (.ok 14 0)) ∧
      (neg (2 ^ 255)).toInt = -2 ^ 255 ∧ (0x7fffffffffffffffffffffffffffffffffffffffffffffffffffffffffffffff : Word).toInt ≠ -2 ^ 255 ∧
      (-2 ^ 255 ≤ (0x4000000000000000000000000000000000000000000000000000000000000000 : Word).toInt * (neg 2).toInt ∧ (0x4000000000000000000000000000000000000000000000000000000000000000 : Word).toInt * (neg 2).toInt < 2 ^ 255) ∧
      2 ^ 255 ≤ (neg (2 ^ 255)).toInt * (neg 1).toInt ∧
      (neg 0x2aaaaaaaaaaaaaaaaaaaaaaaaaaaaaaaaaaaaaaaaaaaaaaaaaaaaaaaaaaaaaab).toInt * (3 : Word).toInt < -2 ^ 255 := by
  refine ⟨rfl, ?_, rfl, ⟨_, rfl, ?_⟩, ?_⟩ <;> decide +kernel

theorem witness_TfvIsRfvThenTfnr :
    State.reset.config = Config.default ∧
      Regular evenState.config ∧ SentinelsAreExtreme evenState.config ∧ VolumesInRange evenState.config 1 1 ∧
      VolumesInRange evenState.config 0 1 ∧ VolumesInRange evenState.config 1 0 ∧
      ¬ VolumesInRange evenState.config 1 2 ∧ ¬ VolumesInRange evenState.config 2 1 := by
  refine ⟨rfl, evenStore_regular, ?_⟩
  unfold SentinelsAreExtreme VolumesInRange InRatioRange; decide +kernel

end Sys2Proof.Tests
end

section
/-! PROOFS. Every request is answered under the stores the spec gives a meaning (O56): the accuracy of the power of
R166 for the default store, the ratios that R10 promises to be legal, and the progress of each command. -/

namespace Sys2Proof.Machine

/-! ### The power of R166 as a fold over all 20 bit positions -/

/-- The start of R166 is the conditional multiplication for bit 0, from the mantissa `2^128`. -/
theorem powerStart_eq_powerStep (c : Config) (n : Nat) : powerStart c n = powerStep c n (2 ^ 128, 0) 0 := by
  have h : 2 ^ 128 * (c.pow.get 0).value / 2 ^ 128 = (c.pow.get 0).value := Nat.mul_div_cancel_left _ (by decide)
  simp only [powerStart, powerStep, h, Nat.zero_add, Fin.val_zero]

/-- What every conditional multiplication keeps, counting bit positions, holds at the end of a run of positions. -/
theorem foldl_powerStep_invariant {c : Config} {n : Nat} {P : Nat → Nat × Nat → Prop}
    (hstep : ∀ (i : Fin 20) acc, P i acc → P (i + 1) (powerStep c n acc i)) (l : List (Fin 20)) {k : Nat}
    {acc : Nat × Nat} (hl : l.map Fin.val = List.range' k l.length) (h : P k acc) :
    P (k + l.length) (l.foldl (powerStep c n) acc) := by
  induction l generalizing k acc with
  | nil => exact h
  | cons i l ih =>
    simp only [List.map_cons, List.length_cons, List.range'_succ, List.cons.injEq] at hl
    obtain ⟨rfl, hl⟩ := hl
    rw [List.length_cons, Nat.add_comm l.length, ← Nat.add_assoc]
    exact ih hl (hstep i acc h)

/-- An invariant of the conditional multiplications, counting bit positions, holds of the power. -/
theorem power_invariant {c : Config} {n : Nat} {P : Nat → Nat × Nat → Prop} (hstart : P 0 (2 ^ 128, 0))
    (hstep : ∀ (i : Fin 20) acc, P i acc → P (i + 1) (powerStep c n acc i)) : P 20 (power c n) := by
  rw [power, powerStart_eq_powerStep]
  exact foldl_powerStep_invariant (k := 1) hstep multiplierPositions rfl (hstep 0 _ hstart)

/-! ### How accurate the power is -/

/-- The entries lie in their range (R10) and less than one unit below `1.0001^(-2^i) * 2^(128 + shift)` (R164). -/
structure PowTableAccurate (c : Config) : Prop where
  ge : ∀ i : Fin 20, 2 ^ 127 ≤ (c.pow.get i).value
  lt : ∀ i : Fin 20, (c.pow.get i).value < 2 ^ 128
  near : ∀ i : Fin 20, 2 ^ (128 + (c.pow.get i).shift) * 10000 ^ 2 ^ (i : Nat) ≤
    ((c.pow.get i).value + 1) * 10001 ^ 2 ^ (i : Nat)

/-- What holds after the bit positions below `i`, `m` being the part of the magnitude they hold: the mantissa is halved
at most once for each position, and each position costs at most two factors `1 - 2^(-107)` against
`1.0001^(-m) * 2^(128 + shift)`. -/
structure PowerAccurate (i m : Nat) (acc : Nat × Nat) : Prop where
  ge : 2 ^ (128 - i) ≤ acc.1
  le : acc.1 ≤ 2 ^ 128
  near : 2 ^ (128 + acc.2) * 10000 ^ m * (2 ^ 107 - 1) ^ (2 * i) ≤ acc.1 * 10001 ^ m * (2 ^ 107) ^ (2 * i)

/-- Nothing is lost before the first position. -/
theorem powerAccurate_start : PowerAccurate 0 0 (2 ^ 128, 0) := ⟨le_rfl, le_rfl, le_rfl⟩

/-- A position that is passed over costs nothing. -/
theorem PowerAccurate.skip {i m : Nat} {acc : Nat × Nat} (h : PowerAccurate i m acc) :
    PowerAccurate (i + 1) m acc where
  ge := (Nat.pow_le_pow_right (by decide) (by omega)).trans h.ge
  le := h.le
  near := by
    have hD : (2 ^ 107 - 1) ^ 2 ≤ (2 ^ 107) ^ 2 := by decide
    rw [Nat.mul_succ, pow_add _ (2 * i), pow_add _ (2 * i), ← mul_assoc, ← mul_assoc]
    exact Nat.mul_le_mul h.near hD

/-- Giving up one unit of a value of at least `2^107 - 1` costs at most a factor `1 - 2^(-107)`. -/
theorem succ_mul_le_mul {q : Nat} (h : 2 ^ 107 - 1 ≤ q) : (q + 1) * (2 ^ 107 - 1) ≤ q * 2 ^ 107 := by omega

/-- A multiplication by an accurate entry costs one factor for the entry and one for the low bits dropped. -/
theorem PowerAccurate.multiply {i m w v s : Nat} {acc : Nat × Nat} (h : PowerAccurate i m acc) (hi : i < 20)
    (hv : 2 ^ 127 ≤ v) (hv' : v < 2 ^ 128) (hnear : 2 ^ (128 + s) * 10000 ^ w ≤ (v + 1) * 10001 ^ w) :
    PowerAccurate (i + 1) (m + w) (acc.1 * v / 2 ^ 128, acc.2 + s) := by
  have hge : 2 ^ (128 - (i + 1)) ≤ acc.1 * v / 2 ^ 128 := by
    rw [Nat.le_div_iff_mul_le (by decide)]
    calc 2 ^ (128 - (i + 1)) * 2 ^ 128 = 2 ^ (128 - i) * 2 ^ 127 := by rw [← pow_add, ← pow_add]; congr 1; omega
      _ ≤ acc.1 * v := Nat.mul_le_mul h.ge hv
  refine ⟨hge, ?_, ?_⟩
  · exact Nat.div_le_of_le_mul (Nat.mul_comm acc.1 v ▸ Nat.mul_le_mul hv'.le h.le)
  · have hq : 2 ^ 107 - 1 ≤ acc.1 * v / 2 ^ 128 :=
      (Nat.sub_le _ _).trans ((Nat.pow_le_pow_right (by decide) (by omega)).trans hge)
    have hentry : (v + 1) * (2 ^ 107 - 1) ≤ v * 2 ^ 107 := succ_mul_le_mul (by omega)
    have hdrop : acc.1 * v * (2 ^ 107 - 1) ≤ 2 ^ 128 * (acc.1 * v / 2 ^ 128 * 2 ^ 107) := by
      have := (Nat.lt_mul_div_succ (acc.1 * v) (Nat.two_pow_pos 128)).le
      calc _ ≤ 2 ^ 128 * (acc.1 * v / 2 ^ 128 + 1) * (2 ^ 107 - 1) := Nat.mul_le_mul_right _ this
        _ ≤ _ := by rw [mul_assoc]; exact Nat.mul_le_mul_left _ (succ_mul_le_mul hq)
    have hbefore := h.near
    refine Nat.le_of_mul_le_mul_left ?_ (Nat.two_pow_pos 128)
    generalize acc.1 * v / 2 ^ 128 = q at *
    generalize 2 ^ 107 - 1 = D at *
    generalize 2 ^ 107 = E at *
    calc 2 ^ 128 * (2 ^ (128 + (acc.2 + s)) * 10000 ^ (m + w) * D ^ (2 * (i + 1)))
        = (2 ^ (128 + acc.2) * 10000 ^ m * D ^ (2 * i)) * (2 ^ (128 + s) * 10000 ^ w) * D * D := by ring
      _ ≤ (acc.1 * 10001 ^ m * E ^ (2 * i)) * ((v + 1) * 10001 ^ w) * D * D :=
          Nat.mul_le_mul_right _ (Nat.mul_le_mul_right _ (Nat.mul_le_mul hbefore hnear))
      _ = (acc.1 * 10001 ^ (m + w) * E ^ (2 * i) * D) * ((v + 1) * D) := by ring
      _ ≤ (acc.1 * 10001 ^ (m + w) * E ^ (2 * i) * D) * (v * E) := by gcongr
      _ = (acc.1 * v * D) * (10001 ^ (m + w) * E ^ (2 * i) * E) := by ring
      _ ≤ (2 ^ 128 * (q * E)) * (10001 ^ (m + w) * E ^ (2 * i) * E) := by gcongr
      _ = _ := by ring

/-- The conditional multiplication for bit `i` takes that bit of the magnitude into account. -/
theorem PowerAccurate.step {c : Config} (hc : PowTableAccurate c) {n : Nat} (i : Fin 20) {acc : Nat × Nat}
    (h : PowerAccurate i (n % 2 ^ (i : Nat)) acc) :
    PowerAccurate (i + 1) (n % 2 ^ (i + 1 : Nat)) (powerStep c n acc i) := by
  unfold powerStep
  rw [Nat.mod_pow_succ, Nat.testBit_eq_decide_div_mod_eq]
  rcases Nat.mod_two_eq_zero_or_one (n / 2 ^ (i : Nat)) with hbit | hbit
  · rw [hbit, if_neg (by decide), Nat.mul_zero, Nat.add_zero]
    exact h.skip
  · rw [hbit, if_pos (by decide), Nat.mul_one]
    exact h.multiply i.isLt (hc.ge i) (hc.lt i) (hc.near i)

/-- Under an accurate table the power is within 40 factors `1 - 2^(-107)` of `1.0001^(-n) * 2^(128 + shift)`. -/
theorem power_accurate {c : Config} (hc : PowTableAccurate c) {n : Nat} (hn : n < 2 ^ 20) :
    PowerAccurate 20 n (power c n) := by
  have h : PowerAccurate 20 (n % 2 ^ 20) (power c n) :=
    power_invariant (P := fun i acc => PowerAccurate i (n % 2 ^ i) acc)
      (by rw [pow_zero, Nat.mod_one]; exact powerAccurate_start) fun i _ h => h.step hc i
  rwa [Nat.mod_eq_of_lt hn] at h

/-- The greatest magnitude of a tick is the last one whose ratio exceeds `2^(-128)` (R9), and the 40 factors do not use
up what is left. -/
theorem extreme_tick_ratio :
    10001 ^ 887272 * (2 ^ 107) ^ 40 < 10000 ^ 887272 * (2 ^ 128 * (2 ^ 107 - 1) ^ 40) := by decide +kernel

/-- A bound `b^N * e < a^N * d` by the smaller base `a` carries over to every smaller exponent. -/
theorem pow_mul_lt_of_le {a b d e n N : Nat} (hab : a ≤ b) (hn : n ≤ N) (h : b ^ N * e < a ^ N * d) :
    b ^ n * e < a ^ n * d := by
  obtain ⟨k, rfl⟩ := Nat.exists_eq_add_of_le hn
  refine lt_of_mul_lt_mul_left (a := a ^ k) ?_ (Nat.zero_le _)
  calc a ^ k * (b ^ n * e) ≤ b ^ k * (b ^ n * e) := Nat.mul_le_mul_right _ (Nat.pow_le_pow_left hab k)
    _ = b ^ (n + k) * e := by ring
    _ < a ^ (n + k) * d := h
    _ = a ^ k * (a ^ n * d) := by ring

/-- Under an accurate table the power of a tick's magnitude exceeds `2^shift`: its ratio exceeds `2^(-128)`. -/
theorem two_pow_shift_lt_power {c : Config} (hc : PowTableAccurate c) {n : Nat} (hn : n ≤ 887272) :
    2 ^ (power c n).2 < (power c n).1 := by
  have hnear := (power_accurate hc (n := n) (by omega)).near
  have hratio : 10001 ^ n * (2 ^ 107) ^ 40 < 10000 ^ n * (2 ^ 128 * (2 ^ 107 - 1) ^ 40) :=
    pow_mul_lt_of_le (by decide) hn extreme_tick_ratio
  by_contra hle
  refine absurd hnear (Nat.not_le.2 ?_)
  generalize power c n = acc at *
  calc acc.1 * 10001 ^ n * (2 ^ 107) ^ (2 * 20)
      ≤ 2 ^ acc.2 * (10001 ^ n * (2 ^ 107) ^ 40) := by rw [mul_assoc]; exact Nat.mul_le_mul_right _ (Nat.not_lt.1 hle)
    _ < 2 ^ acc.2 * (10000 ^ n * (2 ^ 128 * (2 ^ 107 - 1) ^ 40)) :=
        Nat.mul_lt_mul_of_pos_left hratio (Nat.two_pow_pos _)
    _ = _ := by rw [pow_add 2 128]; ring

/-! ### Legal ratios -/

/-- The reciprocal step is the floor quotient of `2^256` (R165). -/
theorem reciprocal_eq {man : Nat} (h0 : 0 < man) (h : man ≤ 2 ^ 256) : reciprocal man = 2 ^ 256 / man := by
  rw [reciprocal, ← Nat.add_div_right _ h0, Nat.sub_add_cancel h]

/-- What the normalizer gives is legal when its exponent lies in `[0, 255]`. -/
theorem normalizeRatio_legal {m p : Nat} {e : Int} (hp : LeadingBit m p) (h0 : 0 ≤ e + 127 - p)
    (h1 : e + 127 - p ≤ 255) : (normalizeRatio m e).legal = true := by
  rw [normalizeRatio_eq hp, Ratio.legal_iff]
  exact ⟨normalized_mantissaAt127 hp, h0, h1⟩

/-- A power in `(2^shift, 2^128]` normalizes to a legal ratio, without and with the reciprocal step. -/
theorem rft_legal_of_power {c : Config} {t : Int} (hgt : 2 ^ (power c t.natAbs).2 < (power c t.natAbs).1)
    (hle : (power c t.natAbs).1 ≤ 2 ^ 128) : (rft c t).legal = true := by
  unfold rft
  generalize power c t.natAbs = acc at *
  obtain ⟨man, shift⟩ := acc
  dsimp only at *
  have hpos : 0 < man := (Nat.zero_le _).trans_lt hgt
  split
  · rw [reciprocal_eq hpos (hle.trans (by decide))]
    have hq : 2 ^ 256 / man ≠ 0 := (Nat.div_pos (hle.trans (by decide)) hpos).ne'
    obtain ⟨p, hp⟩ : ∃ p, LeadingBit (2 ^ 256 / man) p := ⟨_, leadingBit_fls hq⟩
    have hlt : p + shift < 256 := by
      rw [← Nat.pow_lt_pow_iff_right (a := 2) (by decide), pow_add]
      calc 2 ^ p * 2 ^ shift < 2 ^ p * man := Nat.mul_lt_mul_of_pos_left hgt (Nat.two_pow_pos _)
        _ ≤ 2 ^ 256 / man * man := Nat.mul_le_mul_right _ hp.1
        _ ≤ 2 ^ 256 := Nat.div_mul_le_self _ _
    exact normalizeRatio_legal hp (by omega) (by omega)
  · obtain ⟨p, hp⟩ : ∃ p, LeadingBit man p := ⟨_, leadingBit_fls hpos.ne'⟩
    have hshift : shift < p + 1 := (Nat.pow_lt_pow_iff_right (a := 2) (by decide)).1 (hgt.trans hp.2)
    have hp128 : p ≤ 128 := (Nat.pow_le_pow_iff_right (a := 2) (by decide)).1 (hp.1.trans hle)
    exact normalizeRatio_legal hp (by omega) (by omega)

/-- Under an accurate table every tick of the legal range has a legal ratio (R10, R169 b). -/
theorem rft_legal_of_accurate {c : Config} (hc : PowTableAccurate c) {t : Int} (ht : InTickRange t) :
    (rft c t).legal = true := by
  obtain ⟨h1, h2⟩ := ht
  unfold minTick at h1
  unfold maxTick at h2
  exact rft_legal_of_power (two_pow_shift_lt_power hc (by omega)) (power_accurate hc (by omega)).le

theorem default_powTableAccurate : PowTableAccurate Config.default where
  ge := by decide +kernel
  lt := by decide +kernel
  near := by decide +kernel

/-- Two amounts below `2^128`, neither zero, have a legal ratio (R176). -/
theorem volumeRatio_legal {a b : Nat} (ha : a ≠ 0) (hb : b ≠ 0) (ha' : a < 2 ^ 128) (hb' : b < 2 ^ 128) :
    (volumeRatio a b).legal = true := by
  have hq : a * 2 ^ 128 / b ≠ 0 := by
    rw [Nat.div_ne_zero_iff]
    exact ⟨hb, by omega⟩
  obtain ⟨p, hp⟩ : ∃ p, LeadingBit (a * 2 ^ 128 / b) p := ⟨_, leadingBit_fls hq⟩
  have hlt : p < 256 := by
    rw [← Nat.pow_lt_pow_iff_right (a := 2) (by decide)]
    calc 2 ^ p ≤ a * 2 ^ 128 / b := hp.1
      _ ≤ a * 2 ^ 128 := Nat.div_le_self _ _
      _ < 2 ^ 256 := by omega
  exact normalizeRatio_legal hp (by omega) (by omega)

/-! ### The stores that answer -/

/-- The part of `Regular` that keeps every command from a refusal; whether `RFT` increases plays no part in it. -/
structure StoreAnswers (c : Config) : Prop where
  wellFormed : c.wellFormed = true
  legal : ∀ t : Int, InTickRange t → (rft c t).legal = true
  minCovered : (rft c minTick).le c.minRatio = true

theorem Regular.storeAnswers {c : Config} (h : Regular c) : StoreAnswers c := ⟨h.wellFormed, h.legal, h.minCovered⟩

theorem default_storeAnswers : StoreAnswers Config.default where
  wellFormed := by decide +kernel
  legal _ ht := rft_legal_of_accurate default_powTableAccurate ht
  minCovered := by decide +kernel

/-- What a well-formed store says of its sentinels and of its volume ceiling. -/
theorem Config.wellFormed_sentinels_volume {c : Config} (h : c.wellFormed = true) :
    c.minRatio.wordPair = true ∧ c.maxRatio.wordPair = true ∧ c.maxSafeVolume < 2 ^ 128 := by
  simp only [Config.wellFormed, Config.sentinelsLegal, Config.volumeInRange, Bool.and_eq_true,
    decide_eq_true_eq] at h
  obtain ⟨⟨-, hmin, hmax⟩, -, hvol⟩ := h
  exact ⟨hmin, hmax, by omega⟩

/-! ### Evaluations that stay inside the domain -/

/-- The evaluation gives a value or raises an error; it does not meet a breach of R10. -/
def InDomain {α : Type} (e : Eval α) : Prop := e ≠ .error .outsideDomain

theorem inDomain_ok {α : Type} (x : α) : InDomain (.ok x : Eval α) := nofun

theorem inDomain_raise {α : Type} (k : ErrorKind) : InDomain (raise k : Eval α) := nofun

/-- A sequence stays inside the domain if its first part does and the rest does on every value of the first. -/
theorem InDomain.bind {α β : Type} {x : Eval α} {f : α → Eval β} (hx : InDomain x)
    (hf : ∀ a, x = .ok a → InDomain (f a)) : InDomain (x >>= f) := by
  intro h
  obtain h | ⟨a, ha, h⟩ := bind_eq_error.1 h
  · exact hx h
  · exact hf a ha h

/-- A sequence that ends in a computed result stays inside the domain if its first part does. -/
theorem InDomain.bind_pure {α β : Type} {x : Eval α} (hx : InDomain x) (f : α → β) :
    InDomain (do let a ← x; return f a) := hx.bind fun a _ => inDomain_ok (f a)

/-- A branch stays inside the domain if both sides do where they are taken. -/
theorem InDomain.ite {α : Type} {p : Prop} [Decidable p] {x y : Eval α} (hx : p → InDomain x)
    (hy : ¬ p → InDomain y) : InDomain (if p then x else y) := by
  split
  · exact hx ‹p›
  · exact hy ‹¬ p›

/-- An evaluation inside the domain is answered: only the response port is written. -/
theorem InDomain.answered {e : Eval (Word × Word)} (h : InDomain e) (s : State) :
    ∃ r, answer s e = .next (s.deliver r) := by
  rcases e with (_ | _) | w
  · exact ⟨_, rfl⟩
  · exact absurd rfl h
  · exact ⟨_, rfl⟩

/-! ### Which operations stay inside the domain -/

theorem checkedUnsigned_inDomain (t : Int) : InDomain (checkedUnsigned t) :=
  .ite (fun _ => inDomain_raise _) fun _ => .ite (fun _ => inDomain_raise _) fun _ => inDomain_ok _

theorem checkedSigned_inDomain (t : Int) : InDomain (checkedSigned t) :=
  .ite (fun _ => inDomain_raise _) fun _ => .ite (fun _ => inDomain_raise _) fun _ => inDomain_ok _

theorem unsignedResult_inDomain (t : Int) : InDomain (unsignedResult t) := (checkedUnsigned_inDomain t).bind_pure _

theorem signedResult_inDomain (t : Int) : InDomain (signedResult t) := (checkedSigned_inDomain t).bind_pure _

theorem fixOperand_inDomain (w : Word) : InDomain (fixOperand w) :=
  .ite (fun _ => inDomain_raise _) fun _ => inDomain_ok _

theorem densityDecode_inDomain (d : Nat) : InDomain (densityDecode d) := by
  by_cases h : CanonicalDensity d
  · rw [densityDecode_canonical h]; exact inDomain_ok _
  · rw [densityDecode_rejects h]; exact inDomain_raise _

theorem densityProduct_inDomain (d m : Nat) : InDomain (densityProduct d m) :=
  (densityDecode_inDomain d).bind fun _ _ => checkedUnsigned_inDomain _

theorem normOperands_inDomain (a b : Word) : InDomain (normOperands a b) :=
  .ite (fun _ => inDomain_raise _) fun _ => .ite (fun _ => inDomain_raise _) fun _ =>
    .ite (fun _ => inDomain_raise _) fun _ => inDomain_ok _

theorem volumeCheck_inDomain (c : Config) (i o : Nat) : InDomain (volumeCheck c i o) :=
  .ite (fun _ => inDomain_raise _) fun _ => inDomain_ok _

theorem tickOperand_inDomain (w : Word) : InDomain (tickOperand w) := by
  rw [tickOperand_eq]
  exact .ite (fun _ => inDomain_raise _) fun _ => .ite (fun _ => inDomain_raise _) fun _ => inDomain_ok _

/-- A tick operand that passes its test is a tick of the legal range. -/
theorem inTickRange_of_tickOperand {w : Word} {t : Int} (h : tickOperand w = .ok t) : InTickRange t := by
  rw [tickOperand_eq] at h
  split at h
  · cases h
  · split at h
    · cases h
    · cases h
      exact ⟨by omega, by omega⟩

/-- The tick range is symmetric, so `OFI` and `OFIUP` negate inside it (R9, R193). -/
theorem InTickRange.neg {t : Int} (h : InTickRange t) : InTickRange (-t) := by
  unfold InTickRange minTick maxTick at *
  omega

/-- Amounts that pass the ceiling test do not exceed it. -/
theorem le_of_volumeCheck {c : Config} {i o : Nat} {u : Unit} (h : volumeCheck c i o = .ok u) :
    i ≤ c.maxSafeVolume ∧ o ≤ c.maxSafeVolume := by
  rw [volumeCheck_eq] at h
  split at h
  · assumption
  · cases h

theorem ratioWords_inDomain {r : Ratio} (h : r.legal = true) : InDomain (ratioWords r) := by
  rw [ratioWords_eq, if_pos h]
  exact inDomain_ok _

theorem sentinelWords_inDomain {r : Ratio} (h : r.wordPair = true) : InDomain (sentinelWords r) := by
  rw [sentinelWords_eq, if_pos h]
  exact inDomain_ok _

theorem applyRatio_inDomain {c : Config} {t : Int} (h : (rft c t).legal = true) (amount : Nat) (up : Bool) :
    InDomain (applyRatio c t amount up) := by
  rw [applyRatio_eq h]
  exact .ite (fun _ => inDomain_raise _) fun _ => inDomain_ok _

section
variable {c : Config} (hc : StoreAnswers c)
include hc

theorem StoreAnswers.tfnr_inDomain {r : Ratio} (h : InRatioRange c r) : InDomain (tfnr c r) := by
  obtain ⟨t, ht, -⟩ := tfnr_isFloorTick (h.covered hc.minCovered)
  rw [ht]
  exact inDomain_ok t

/-- The tick of any pair: an error of its side outside the ratio range, a test and a search inside it. -/
theorem StoreAnswers.tickOfRatio_inDomain (r : Ratio) : InDomain (tickOfRatio c r) := by
  by_cases h : InRatioRange c r
  · exact .ite (fun _ => inDomain_raise _) fun _ => .ite (fun _ => inDomain_raise _) fun _ =>
      .ite (fun _ => inDomain_raise _) fun _ => hc.tfnr_inDomain h
  · obtain e | e := tickOfRatio_outOfRange h
    · rw [e]; exact inDomain_raise _
    · rw [e]; exact inDomain_raise _

theorem StoreAnswers.tickOfVolumes_inDomain (a b : Word) : InDomain (tickOfVolumes c a b) := by
  by_cases h : InRatioRange c (volumeRatio a.toNat b.toNat)
  · rw [tickOfVolumes_inRange h]
    exact hc.tfnr_inDomain h
  · obtain ⟨t, ht, -⟩ := tickOfVolumes_outOfRange h
    rw [ht]
    exact inDomain_ok t

/-- Two amounts under the ceiling, neither zero, have a legal ratio: the ceiling is below `2^128` (R10, R176). -/
theorem StoreAnswers.volumeRatio_legal {a b : Nat} (ha : a ≠ 0) (hb : b ≠ 0) (ha' : a ≤ c.maxSafeVolume)
    (hb' : b ≤ c.maxSafeVolume) : (volumeRatio a b).legal = true := by
  obtain ⟨-, -, hvol⟩ := Config.wellFormed_sentinels_volume hc.wellFormed
  exact Machine.volumeRatio_legal ha hb (by omega) (by omega)

end

/-! ### Every command is answered -/

section
variable {s : State} (hc : StoreAnswers s.config)
include hc

/-- The amount conversions apply the ratio of the tick, or of its negation, both inside the range. -/
theorem StoreAnswers.conversion_answered (a b : Word) (up : Bool) (f : Int → Int)
    (hf : ∀ t, InTickRange t → InTickRange (f t)) :
    ∃ r, answer s (do
      let t ← tickOperand a
      let q ← applyRatio s.config (f t) (uword b) up
      return single (wordU q)) = .next (s.deliver r) :=
  ((tickOperand_inDomain a).bind fun t ht =>
    (applyRatio_inDomain (hc.legal _ (hf t (inTickRange_of_tickOperand ht))) _ up).bind_pure _).answered s

theorem StoreAnswers.execRft_answered (a : Word) : ∃ r, execRft a s = .next (s.deliver r) :=
  ((tickOperand_inDomain a).bind fun t ht =>
    ratioWords_inDomain (hc.legal t (inTickRange_of_tickOperand ht))).answered s

theorem StoreAnswers.execTfnr_answered (a b : Word) : ∃ r, execTfnr a b s = .next (s.deliver r) :=
  ((hc.tickOfRatio_inDomain _).bind_pure _).answered s

theorem StoreAnswers.execTfr_answered (a b : Word) : ∃ r, execTfr a b s = .next (s.deliver r) :=
  ((normOperands_inDomain a b).bind fun r _ => (hc.tickOfRatio_inDomain r).bind_pure _).answered s

theorem StoreAnswers.execRfv_answered (a b : Word) : ∃ r, execRfv a b s = .next (s.deliver r) := by
  obtain ⟨hmin, hmax, -⟩ := Config.wellFormed_sentinels_volume hc.wellFormed
  refine InDomain.answered ((volumeCheck_inDomain _ _ _).bind fun _ hv => ?_) s
  obtain ⟨ha, hb⟩ := le_of_volumeCheck hv
  exact .ite (fun _ => sentinelWords_inDomain hmax) fun hb0 => .ite (fun _ => sentinelWords_inDomain hmin) fun ha0 =>
    ratioWords_inDomain (hc.volumeRatio_legal ha0 hb0 ha hb)

theorem StoreAnswers.execTfv_answered (a b : Word) : ∃ r, execTfv a b s = .next (s.deliver r) :=
  ((volumeCheck_inDomain _ _ _).bind fun _ _ => .ite (fun _ => inDomain_ok _) fun _ =>
    .ite (fun _ => inDomain_ok _) fun _ => (hc.tickOfVolumes_inDomain a b).bind_pure _).answered s

/-- Under such a store every command is answered, and writes the response port only. -/
theorem StoreAnswers.exec_answered (i : Instr) : ∃ r, exec i s = .next (s.deliver r) := by
  cases i with
  | shl a b => exact (inDomain_ok _).answered s
  | shr a b => exact (inDomain_ok _).answered s
  | not a => exact (inDomain_ok _).answered s
  | and a b => exact (inDomain_ok _).answered s
  | or a b => exact (inDomain_ok _).answered s
  | addu a b => exact (unsignedResult_inDomain _).answered s
  | subu a b => exact (unsignedResult_inDomain _).answered s
  | mulu a b => exact (unsignedResult_inDomain _).answered s
  | adds a b => exact (signedResult_inDomain _).answered s
  | subs a b => exact (signedResult_inDomain _).answered s
  | muls a b => exact (signedResult_inDomain _).answered s
  | ctz64 a => exact (inDomain_ok _).answered s
  | fls a => exact (inDomain_ok _).answered s
  | dfrom a => exact ((fixOperand_inDomain a).bind_pure _).answered s
  | dto a => exact ((densityDecode_inDomain _).bind_pure _).answered s
  | dmul a b => exact ((densityProduct_inDomain _ _).bind_pure _).answered s
  | dmulup a b => exact ((densityProduct_inDomain _ _).bind_pure _).answered s
  | norm a b => exact ((normOperands_inDomain a b).bind_pure _).answered s
  | rft a => exact hc.execRft_answered a
  | tfnr a b => exact hc.execTfnr_answered a b
  | tfr a b => exact hc.execTfr_answered a b
  | rfv a b => exact hc.execRfv_answered a b
  | tfv a b => exact hc.execTfv_answered a b
  | ifo a b => exact hc.conversion_answered a b false id fun _ => id
  | ifoup a b => exact hc.conversion_answered a b true id fun _ => id
  | ofi a b => exact hc.conversion_answered a b false Neg.neg fun _ => InTickRange.neg
  | ofiup a b => exact hc.conversion_answered a b true Neg.neg fun _ => InTickRange.neg

/-- Under such a store a transaction answers every request vector, assigned opcode or not. -/
theorem StoreAnswers.transact_answered (q : Request) : ∃ r, transact s q = .next (s.accept.deliver r) := by
  cases hd : decode q with
  | ok i =>
    rw [transact, step_request rfl hd]
    exact StoreAnswers.exec_answered (s := s.accept) hc i
  | error e => exact ⟨_, step_rejected rfl hd⟩

end

/-- Settles O56: both kinds of store keep the promises of R10 that the commands rest on, and under those no command and
no rejected request ends in a refusal. -/
theorem storesThatMeetR10AnswerEveryRequest : Obligations.StoresThatMeetR10AnswerEveryRequest := by
  intro s r h
  have hc : StoreAnswers s.config := by
    obtain h | h := h
    · rw [h]; exact default_storeAnswers
    · exact h.storeAnswers
  exact hc.transact_answered r

end Sys2Proof.Machine
end

section
/-! PROOFS. The constant store (spec/10_state.md): no step and no reset writes it (O52, O57), and the default values are
what R28 and R31 say (O27, O28). -/

namespace Sys2Proof.Machine

/-! ### What a step writes -/

/-- Every command ends in `answer`, the one place where it can write the state (R14). -/
theorem exec_eq_answer (i : Instr) (s : State) : ∃ e, exec i s = answer s e := by
  cases i with
  | shl | shr | not | and | or | ctz64 | fls => exact ⟨.ok _, rfl⟩
  | _ => exact ⟨_, rfl⟩

/-- A command that answers has written the response port and nothing else. -/
theorem exec_next {i : Instr} {s t : State} (h : exec i s = .next t) : ∃ r, t = s.deliver r := by
  obtain ⟨e, he⟩ := exec_eq_answer i s
  obtain ⟨r, ht, -⟩ := answer_next (he.symm.trans h)
  exact ⟨r, ht⟩

/-- A step changes nothing, or consumes the presented request and leaves a response. -/
theorem step_next {s t : State} (h : step s = .next t) :
    (s.request = none ∧ t = s) ∨ ∃ r, t = s.accept.deliver r := by
  obtain hidle | ⟨_, i, -, -, hexec⟩ | ⟨_, _, -, -, hrejected⟩ := step_cases h
  · exact .inl hidle
  · exact .inr (exec_next hexec)
  · exact .inr ⟨_, hrejected⟩

/-- Soundness is a property of the constant store alone. -/
theorem State.storeSound_congr {s t : State} (h : t.config = s.config) : t.storeSound = s.storeSound := by
  rw [State.storeSound, State.storeSound, h]

/-- Settles O52: an idle step and an answered request both leave the constant store, on which soundness rests. -/
theorem stepKeepsTheConstantStoreSound : Obligations.StepKeepsTheConstantStoreSound := by
  intro s t h
  obtain ⟨hnone, rfl⟩ | ⟨r, rfl⟩ := step_next h
  · exact ⟨rfl, id, hnone, fun hsome => by simp [hnone] at hsome⟩
  · exact ⟨rfl, (State.storeSound_congr (by simp)).trans, rfl, fun _ => rfl⟩

/-! ### The default power table -/

/-- A table of floors approximates the powers from below, within less than one unit and so within any tolerance. -/
theorem powApproximates_of_floor {c : Config}
    (h : ∀ i : Fin 20, (c.pow.get i).value =
      2 ^ (128 + (c.pow.get i).shift) * 10000 ^ 2 ^ (i : Nat) / 10001 ^ 2 ^ (i : Nat)) : PowApproximates c := by
  intro i
  rw [h i]
  exact ⟨Nat.div_mul_le_self _ _,
    Nat.lt_mul_of_div_lt ((Nat.lt_succ_self _).trans_le (Nat.le_add_right _ _)) (Nat.pow_pos (by decide))⟩

/-- Each entry is the floor of R28. -/
theorem default_pow_eq_floor (i : Fin 20) : (Config.default.pow.get i).value =
    2 ^ (128 + (Config.default.pow.get i).shift) * 10000 ^ 2 ^ (i : Nat) / 10001 ^ 2 ^ (i : Nat) := by
  decide +kernel +revert

/-- No smaller shift brings an entry to `2^127` (R28). -/
theorem default_shift_least (i : Fin 20) : (Config.default.pow.get i).shift = 0 ∨
    2 ^ (128 + (Config.default.pow.get i).shift - 1) * 10000 ^ 2 ^ (i : Nat) / 10001 ^ 2 ^ (i : Nat) < 2 ^ 127 := by
  decide +kernel +revert

/-- Settles O27: the entries are evaluated, and that they approximate the powers holds of any table of floors. -/
theorem defaultPowerTableIsItsFormula : Obligations.DefaultPowerTableIsItsFormula :=
  ⟨fun i => ⟨default_pow_eq_floor i, default_powTableAccurate.ge i, default_shift_least i⟩,
    powApproximates_of_floor default_pow_eq_floor⟩

/-! ### The default sentinels -/

/-- `MIN_RATIO` is the ratio of the least tick (R31). -/
theorem default_rft_minTick : rft Config.default minTick = Config.default.minRatio := by decide +kernel

/-- `MAX_RATIO` is the ratio of the greatest tick (R31). -/
theorem default_rft_maxTick : rft Config.default maxTick = Config.default.maxRatio := by decide +kernel

/-- Settles O28: the pipeline of R166 is run at both extreme ticks, and the literals of R31 are those of the store. -/
theorem defaultSentinelsAreExtremeRatios : Obligations.DefaultSentinelsAreExtremeRatios :=
  ⟨default_rft_minTick, default_rft_maxTick, rfl, rfl, default_storeAnswers.wellFormed⟩

/-! ### Reset -/

/-- A store that keeps the promises the commands rest on is sound. -/
theorem StoreAnswers.storeSound {s : State} (h : StoreAnswers s.config) : s.storeSound = true := by
  rw [State.storeSound, h.wellFormed, h.minCovered, Bool.and_self]

/-- Settles O57: reset brings up the default store, and a later reset writes the two ports only. -/
theorem resetLeavesTheUnitIdleAndTheStoreAlone : Obligations.ResetLeavesTheUnitIdleAndTheStoreAlone :=
  ⟨State.reset_request, State.reset_response, StoreAnswers.storeSound default_storeAnswers, fun _ => rfl⟩

end Sys2Proof.Machine
end

section
/-! PROOFS. Independence of a response from the history of the unit (spec/20_memory.md): it is a function of the request
and the constant store (O54), so requests in sequence are answered as each would be alone (O55). -/

namespace Sys2Proof.Machine

/-! ### One transaction -/

/-- Accepting a request leaves nothing of a state but its constant store. -/
theorem State.accept_congr {s s' : State} (h : s.config = s'.config) : s.accept = s'.accept := by
  rw [State.accept, State.accept, h]

/-- A request is served from the accepted state, so the step reads the request and the constant store only (R46). -/
theorem step_congr {s s' : State} {r : Request} (hc : s.config = s'.config) (hs : s.request = some r)
    (hs' : s'.request = some r) : step s = step s' := by
  cases hd : decode r with
  | ok i => rw [step_request hs hd, step_request hs' hd, State.accept_congr hc]
  | error e => rw [step_rejected hs hd, step_rejected hs' hd, State.accept_congr hc]

/-- A step with a request on the port leaves the accepted state with a response. -/
theorem step_next_of_request {s t : State} {r : Request} (hs : s.request = some r) (h : step s = .next t) :
    ∃ a, t = s.accept.deliver a := by
  obtain ⟨hnone, -⟩ | hanswered := step_next h
  · simp [hs] at hnone
  · exact hanswered

/-- Settles O54: the step reads nothing else of the state, and what it leaves beside the response is the store. -/
theorem responseDependsOnRequestAndStoreOnly : Obligations.ResponseDependsOnRequestAndStoreOnly :=
  fun _ _ _ hc hs hs' => ⟨step_congr hc hs hs', fun _ => step_next_of_request hs⟩

/-- A transaction reads nothing of the state it starts from but the constant store (R46). -/
theorem transact_congr {s s' : State} (h : s.config = s'.config) (r : Request) : transact s r = transact s' r :=
  step_congr (r := r) h rfl rfl

/-- A transaction that goes on has answered, and has kept the constant store. -/
theorem transact_next {s t : State} {r : Request} (h : transact s r = .next t) : ∃ a, t = s.accept.deliver a :=
  step_next_of_request (s := s.present r) rfl h

/-! ### A sequence of transactions -/

/-- Serving a sequence reads nothing of the state it starts from but the constant store. -/
theorem serve_congr {s s' : State} (h : s.config = s'.config) (rs : List Request) : serve s rs = serve s' rs := by
  cases rs with
  | nil => rfl
  | cons r rest => rw [serve, serve, transact_congr h]

/-- The requests after the first are served as if the first had not been there, except that there are no responses if
its transaction stops (R47). -/
theorem serve_cons (s : State) (r : Request) (rest : List Request) :
    serve s (r :: rest) = (do
      let answered ← responseOf (transact s r)
      let later ← serve s rest
      return answered :: later) := by
  rw [serve]
  cases h : transact s r with
  | next t =>
    obtain ⟨a, rfl⟩ := transact_next h
    have hrest : serve (s.accept.deliver a) rest = serve s rest := serve_congr (by simp) rest
    simp only [hrest, responseOf, State.deliver_response]
    cases serve s rest <;> rfl
  | fault f => rfl
  | refused q => rfl

/-- Settles O55, by induction on the sequence: each request is answered from the first state, whatever came before. -/
theorem servedResponsesAreThoseOfEachRequestAlone : Obligations.ServedResponsesAreThoseOfEachRequestAlone := by
  intro rs s
  induction rs with
  | nil => rfl
  | cons r rest ih => rw [serve_cons, List.mapM_cons, ih]

end Sys2Proof.Machine
end

section
/-! PROOFS. The command encoding (spec/30_encoding.md): request vectors and the opcode map (O45 to O51), response vectors
(O58), and the host's scripts and pseudo-commands (O59, O60). -/

namespace Sys2Proof

/-! ### Request vectors -/

/-- A request is its three fields (R61). -/
@[simp] theorem Request.make_fields (r : Request) : Request.make r.op r.a r.b = r := by
  apply BitVec.eq_of_toNat_eq
  have := r.isLt
  simp only [Request.make_toNat, Request.op, Request.a, Request.b, BitVec.extractLsb'_toNat,
    Nat.shiftRight_eq_div_pow]
  omega

/-- A vector that is the layout of three fields decodes as they do. -/
theorem decode_of_eq_make {r : Request} {op : BitVec 8} {a b : Word} (h : r = Request.make op a b) :
    decode r = decodeFields op a b := by rw [h, decode_make]

end Sys2Proof

namespace Sys2Proof.Machine

/-- Settles O45: one round trip for each row of the opcode table. -/
theorem decodeOfEncodeIsTheCommand : Obligations.DecodeOfEncodeIsTheCommand := by
  intro i
  cases i with
  | shl a b => exact Laws.RoundTrip.shl a b
  | shr a b => exact Laws.RoundTrip.shr a b
  | not a => exact Laws.RoundTrip.not a
  | and a b => exact Laws.RoundTrip.and a b
  | or a b => exact Laws.RoundTrip.or a b
  | addu a b => exact Laws.RoundTrip.addu a b
  | subu a b => exact Laws.RoundTrip.subu a b
  | mulu a b => exact Laws.RoundTrip.mulu a b
  | adds a b => exact Laws.RoundTrip.adds a b
  | subs a b => exact Laws.RoundTrip.subs a b
  | muls a b => exact Laws.RoundTrip.muls a b
  | ctz64 a => exact Laws.RoundTrip.ctz64 a
  | fls a => exact Laws.RoundTrip.fls a
  | dfrom a => exact Laws.RoundTrip.dfrom a
  | dto a => exact Laws.RoundTrip.dto a
  | dmul a b => exact Laws.RoundTrip.dmul a b
  | dmulup a b => exact Laws.RoundTrip.dmulup a b
  | norm a b => exact Laws.RoundTrip.norm a b
  | rft a => exact Laws.RoundTrip.rft a
  | tfnr a b => exact Laws.RoundTrip.tfnr a b
  | tfr a b => exact Laws.RoundTrip.tfr a b
  | rfv a b => exact Laws.RoundTrip.rfv a b
  | tfv a b => exact Laws.RoundTrip.tfv a b
  | ifo a b => exact Laws.RoundTrip.ifo a b
  | ifoup a b => exact Laws.RoundTrip.ifoup a b
  | ofi a b => exact Laws.RoundTrip.ofi a b
  | ofiup a b => exact Laws.RoundTrip.ofiup a b

/-! ### The opcode map -/

/-- An assigned opcode names a command of that opcode, with the two operand words, the ignored one as 0 (R64, R67). -/
theorem decodeFields_assigned {op : BitVec 8} (a b : Word) (h : op ∈ assignedOpcodes) :
    ∃ i, decodeFields op a b = .ok i ∧ i.opcode = op ∧
      i.operands = (a, if op ∈ oneOperandOpcodes then 0 else b) := by
  simp only [assignedOpcodes, List.mem_cons, List.not_mem_nil, or_false] at h
  rcases h with rfl | rfl | rfl | rfl | rfl | rfl | rfl | rfl | rfl | rfl | rfl | rfl | rfl | rfl | rfl | rfl | rfl |
    rfl | rfl | rfl | rfl | rfl | rfl | rfl | rfl | rfl | rfl <;> exact ⟨_, rfl, rfl, rfl⟩

/-- Any other opcode is rejected, and the error names it (R66). -/
theorem decodeFields_unassigned {op : BitVec 8} (a b : Word) (h : op ∉ assignedOpcodes) :
    decodeFields op a b = .error (.unassignedOpcode op) := by
  unfold decodeFields
  split
  case h_28 => rfl
  all_goals exact absurd (by decide) h

/-- A decoded command has the opcode of its request, which is an assigned one, and the operand words of its request, the
ignored one as 0. -/
theorem decode_ok {r : Request} {i : Instr} (h : decode r = .ok i) :
    r.op ∈ assignedOpcodes ∧ i.opcode = r.op ∧ i.operands = (r.a, if r.op ∈ oneOperandOpcodes then 0 else r.b) := by
  by_cases hop : r.op ∈ assignedOpcodes
  · obtain ⟨j, hj, hopcode, hoperands⟩ := decodeFields_assigned r.a r.b hop
    cases h.symm.trans hj
    exact ⟨hop, hopcode, hoperands⟩
  · cases h.symm.trans (decodeFields_unassigned r.a r.b hop)

/-- Settles O46: the encoder lays out the fields that the decoder has kept. -/
theorem encodeOfDecodeIsTheRequest : Obligations.EncodeOfDecodeIsTheRequest := by
  intro r i h
  obtain ⟨-, hopcode, hoperands⟩ := decode_ok h
  rw [encode, hopcode, hoperands]
  split
  · rfl
  · exact Request.make_fields r

/-- The decoder rejects every request with an unassigned opcode. -/
theorem decode_unassigned {r : Request} (h : r.op ∉ assignedOpcodes) :
    decode r = .error (.unassignedOpcode r.op) := decodeFields_unassigned r.a r.b h

/-- Settles O47: the opcode alone decides, and the unassigned ones are counted. -/
theorem decoderRejectsExactlyTheUnassignedOpcodes : Obligations.DecoderRejectsExactlyTheUnassignedOpcodes := by
  refine ⟨fun r => ⟨decode_unassigned, fun hrejected hop => ?_⟩,
    fun r => ⟨fun hop => ?_, fun ⟨_, hi⟩ => (decode_ok hi).1⟩, by decide +kernel⟩
  · obtain ⟨i, hi, -⟩ := decodeFields_assigned r.a r.b hop
    cases hrejected.symm.trans hi
  · obtain ⟨i, hi, -⟩ := decodeFields_assigned r.a r.b hop
    exact ⟨i, hi⟩

/-- Settles O48: each vector is the layout of its three fields. -/
theorem writtenRequestsDecode : Obligations.WrittenRequestsDecode :=
  ⟨decode_of_eq_make (op := 0x10) (a := 1) (b := 2) (by decide +kernel),
    decode_of_eq_make (op := 0x11) (a := 0) (b := 1) (by decide +kernel),
    decode_of_eq_make (op := 0x45) (a := 1) (b := 2) (by decide +kernel),
    decode_of_eq_make (op := 0x31) (a := 4) (b := 0) (by decide +kernel),
    decode_of_eq_make (op := 0x05) (a := 1) (b := 2) (by decide +kernel)⟩

/-! ### What a step does with a request -/

/-- Without a request the unit does nothing (R60). -/
theorem step_idle {s : State} (h : s.request = none) : step s = .next s := by
  rw [step, h]

/-- Settles O49: a presented request that decodes, an empty request port, and the fields of the accepted state. -/
theorem stepRunsTheDecodedCommand : Obligations.StepRunsTheDecodedCommand :=
  ⟨fun _ _ _ hs hi _ => step_request hs hi, fun _ => step_idle, fun _ => rfl⟩

/-- Requests that decode alike have the same step. -/
theorem step_present_congr {q q' : Request} (s : State) (h : decode q = decode q') :
    step (s.present q) = step (s.present q') := by
  simp only [step, State.present_request, State.accept_present, h]

/-- The decoder drops the ignored operand word (R67). -/
theorem decodeFields_ignored {op : BitVec 8} (a b b' : Word) (h : op ∈ oneOperandOpcodes) :
    decodeFields op a b = decodeFields op a b' := by
  simp only [oneOperandOpcodes, List.mem_cons, List.not_mem_nil, or_false] at h
  rcases h with rfl | rfl | rfl | rfl | rfl | rfl <;> rfl

/-- Settles O51: the two requests decode to the same command. -/
theorem ignoredOperandDoesNotAffectTheStep : Obligations.IgnoredOperandDoesNotAffectTheStep := by
  intro op a b b' s h
  apply step_present_congr
  rw [decode_make, decode_make, decodeFields_ignored a b b' h]

/-! ### Response vectors -/

/-- The integer of a response vector (R62). -/
theorem Response.pack_toNat (r : Response) :
    r.pack.toNat = r.status.toNat * 2 ^ 512 + r.r0.toNat * 2 ^ 256 + r.r1.toNat := by
  rw [Response.pack, BitVec.toNat_ofNat, Nat.mod_eq_of_lt]
  have := r.status.isLt; have := r.r0.isLt; have := r.r1.isLt
  omega

/-- The three fields of a response vector are those of the response. -/
theorem Response.fields_pack (r : Response) :
    r.pack.extractLsb' 512 4 = r.status ∧ r.pack.extractLsb' 256 256 = r.r0 ∧ r.pack.extractLsb' 0 256 = r.r1 := by
  have := r.status.isLt; have := r.r0.isLt; have := r.r1.isLt
  refine ⟨BitVec.eq_of_toNat_eq ?_, BitVec.eq_of_toNat_eq ?_, BitVec.eq_of_toNat_eq ?_⟩
  all_goals
    rw [BitVec.extractLsb'_toNat, Response.pack_toNat, Nat.shiftRight_eq_div_pow]
    omega

/-- No error kind has the status code of `OK` (R201). -/
theorem ErrorKind.code_ne_zero (k : ErrorKind) : k.code ≠ 0 := by
  cases k <;> decide

/-- A status code names its error kind. -/
@[simp] theorem ErrorKind.ofCode_code (k : ErrorKind) : ErrorKind.ofCode k.code = some k := by
  cases k <;> rfl

/-- A packed response reads back. -/
theorem Response.unpack_pack (r : Response) : Response.unpack r.pack = some r := by
  obtain ⟨hstatus, hr0, hr1⟩ := r.fields_pack
  simp only [Response.unpack, hstatus, hr0, hr1]
  cases r with
  | ok r0 r1 => rfl
  | err k =>
    simp only [Response.status, Response.r0, Response.r1, if_neg k.code_ne_zero, and_self, if_true,
      ErrorKind.ofCode_code, Option.map_some]

/-- The vector of an error carries its status code alone (R63). -/
theorem Response.err_pack_toNat (k : ErrorKind) : (Response.err k).pack.toNat = k.code.toNat * 2 ^ 512 := by
  have hzero : (0 : Word).toNat = 0 := rfl
  rw [Response.pack_toNat, Response.status, Response.r0, Response.r1, hzero, Nat.zero_mul, Nat.add_zero]

/-- Settles O58: the fields of the vector are read back, and those of an error are its code and two zeros. -/
theorem responseVectorsRoundTrip : Obligations.ResponseVectorsRoundTrip :=
  ⟨fun r => ⟨Response.unpack_pack r, Response.pack_toNat r⟩,
    fun k => ⟨Response.err_pack_toNat k, by cases k <;> decide⟩⟩

/-- Settles O50: the decoder rejects the request, and the step answers a rejected request with `IllegalOp`. -/
theorem unassignedOpcodeAnswersIllegalOp : Obligations.UnassignedOpcodeAnswersIllegalOp := by
  intro op a b s h
  have hrejected : decode (Request.make op a b) = .error (.unassignedOpcode op) :=
    (decode_make op a b).trans (decodeFields_unassigned a b h)
  have hcode : ErrorKind.illegalOp.code.toNat = 15 := rfl
  exact ⟨⟨_, step_rejected rfl hrejected, rfl, rfl⟩, by rw [Response.err_pack_toNat, hcode]⟩

/-! ### Commands read the constant store only -/

/-- The end of a command tells its evaluations apart. -/
theorem answer_injective {s : State} {e e' : Eval (Word × Word)} (h : answer s e = answer s e') : e = e' := by
  rcases e with (_ | _) | ⟨_, _⟩ <;> rcases e' with (_ | _) | ⟨_, _⟩ <;> cases h <;> rfl

/-- What a command evaluates is a function of its operands and the constant store (R46). -/
theorem exec_eq_answer_of_config {s s' : State} (h : s.config = s'.config) (i : Instr) :
    ∃ e, exec i s = answer s e ∧ exec i s' = answer s' e := by
  obtain ⟨c, q, r⟩ := s
  obtain ⟨c', q', r'⟩ := s'
  obtain rfl : c = c' := h
  cases i with
  | shl | shr | not | and | or | ctz64 | fls => exact ⟨.ok _, rfl, rfl⟩
  | _ => exact ⟨_, rfl, rfl⟩

/-- In states with the same constant store a command ends with the same evaluation. -/
theorem exec_congr {s s' : State} {i : Instr} {e : Eval (Word × Word)} (hc : s.config = s'.config)
    (h : exec i s = answer s e) : exec i s' = answer s' e := by
  obtain ⟨e', he, he'⟩ := exec_eq_answer_of_config hc i
  rw [he', answer_injective (h.symm.trans he)]

/-! ### Lines of a script -/

/-- A script reads nothing of the state it starts from but the constant store. -/
theorem runScript_congr {s s' : State} (h : s.config = s'.config) (lines : List ScriptLine) (bound : List Word) :
    runScript lines s bound = runScript lines s' bound := by
  cases lines with
  | nil => rfl
  | cons l rest =>
    have hstep : ∀ r, step (s.present r) = step (s'.present r) := transact_congr h
    simp only [runScript, hstep]

section
variable {l : ScriptLine} {rest : List ScriptLine} {s t : State} {bound : List Word} {q : Request}

/-- A line that is answered a result binds both words, and the script goes on (R75). -/
theorem runScript_cons_ok {r0 r1 : Word} (hl : l.request bound = some q) (ht : transact s q = .next t)
    (hr : t.response = some (.ok r0 r1)) : runScript (l :: rest) s bound = runScript rest t (bound ++ [r0, r1]) := by
  rw [transact] at ht
  simp only [runScript, hl, ht, hr]

/-- A line that is answered an error ends the script (R75, R211). -/
theorem runScript_cons_err {k : ErrorKind} (hl : l.request bound = some q)
    (hr : responseOf (transact s q) = some (.err k)) : runScript (l :: rest) s bound = .stopped k bound := by
  rw [transact] at hr
  cases ht : step (s.present q) with
  | next t =>
    have herr : t.response = some (.err k) := by rwa [ht] at hr
    simp only [runScript, hl, ht, herr]
  | fault f => cases f
  | refused why => rw [ht] at hr; cases hr

/-- A line that is refused ends the script. -/
theorem runScript_cons_refused {why : Refusal} (hl : l.request bound = some q) (ht : transact s q = .refused why) :
    runScript (l :: rest) s bound = .refused why := by
  rw [transact] at ht
  simp only [runScript, hl, ht]

variable {op : BitVec 8} {a b : Word} {i : Instr}

/-- A transaction of a command ends with the evaluation of the command. -/
theorem transact_command {e : Eval (Word × Word)} (hi : decodeFields op a b = .ok i) (h : exec i s = answer s e) :
    transact s (Request.make op a b) = answer s.accept e :=
  (step_present hi).trans (exec_congr (State.accept_config s).symm h)

variable (hl : l.request bound = some (Request.make op a b)) (hi : decodeFields op a b = .ok i)
include hl hi

/-- After a command that answers a result the script goes on; the state it goes on from may be the old one, because the
constant store is the same. -/
theorem runScript_command_ok {r0 r1 : Word} (h : exec i s = answer s (.ok (r0, r1))) :
    runScript (l :: rest) s bound = runScript rest s (bound ++ [r0, r1]) :=
  (runScript_cons_ok hl (transact_command hi h) rfl).trans (runScript_congr (by simp) _ _)

/-- A command that raises an error ends the script with it. -/
theorem runScript_command_raise {k : ErrorKind} (h : exec i s = answer s (raise k)) :
    runScript (l :: rest) s bound = .stopped k bound :=
  runScript_cons_err hl (congrArg responseOf (transact_command hi h))

/-- A command that meets a breach of R10 ends the script with the refusal. -/
theorem runScript_command_outsideDomain (h : exec i s = answer s (.error .outsideDomain)) :
    runScript (l :: rest) s bound = .refused .constantStoreOutsideDomain :=
  runScript_cons_refused hl (transact_command hi h)

end

/-! ### NEGS and BIN -/

theorem signedResult_overflow {t : Int} (h : 2 ^ 255 ≤ t) : signedResult t = raise .overflow := by
  rw [signedResult, checkedSigned_eq, if_pos h, raise_bind]

theorem signedResult_underflow {t : Int} (h : t < -2 ^ 255) : signedResult t = raise .underflow := by
  rw [signedResult, checkedSigned_eq, if_neg (by omega), if_pos h, raise_bind]

theorem signedResult_inRange {t : Int} (h : -2 ^ 255 ≤ t) (h' : t < 2 ^ 255) : signedResult t = .ok (wordS t, 0) := by
  rw [signedResult, checkedSigned_ok.2 ⟨⟨h, h'⟩, rfl⟩, ok_bind]
  rfl

/-- `NEGS` evaluates the exact negation. -/
theorem exec_subs_zero (x : Word) (s : State) : exec (.subs 0 x) s = answer s (signedResult (-x.toInt)) := by
  have h : sword 0 - sword x = -x.toInt := by simp [sword]
  rw [← h]
  rfl

/-- The script of `NEGS` overflows on the least signed word and else finishes with the negation (R76). -/
theorem runScript_negs (x : Word) (s : State) :
    (x.toInt = -2 ^ 255 → runScript (negsScript x) s [] = .stopped .overflow []) ∧
      (x.toInt ≠ -2 ^ 255 → ∃ r : Word, r.toInt = -x.toInt ∧ runScript (negsScript x) s [] = .finished [r, 0]) := by
  have hexec := exec_subs_zero x s
  refine ⟨fun h => ?_, fun h => ?_⟩
  · rw [signedResult_overflow (by omega)] at hexec
    exact runScript_command_raise rfl rfl hexec
  · have hlow : -2 ^ 255 ≤ x.toInt := x.le_toInt
    have hhigh : x.toInt < 2 ^ 255 := x.toInt_lt
    rw [signedResult_inRange (by omega) (by omega)] at hexec
    exact ⟨_, wordS_toInt (by omega) (by omega), runScript_command_ok rfl rfl hexec⟩

/-- The script of `BIN` finishes with the exact signed product, or stops on the side where it leaves the range (R76). -/
theorem runScript_bin (t d : Word) (s : State) :
    (-2 ^ 255 ≤ t.toInt * d.toInt → t.toInt * d.toInt < 2 ^ 255 →
        ∃ r : Word, r.toInt = t.toInt * d.toInt ∧ runScript (binScript t d) s [] = .finished [r, 0]) ∧
      (2 ^ 255 ≤ t.toInt * d.toInt → runScript (binScript t d) s [] = .stopped .overflow []) ∧
      (t.toInt * d.toInt < -2 ^ 255 → runScript (binScript t d) s [] = .stopped .underflow []) := by
  have hexec : exec (.muls t d) s = answer s (signedResult (t.toInt * d.toInt)) := rfl
  refine ⟨fun h h' => ?_, fun h => ?_, fun h => ?_⟩
  · rw [signedResult_inRange h h'] at hexec
    exact ⟨_, wordS_toInt h h', runScript_command_ok rfl rfl hexec⟩
  · rw [signedResult_overflow h] at hexec
    exact runScript_command_raise rfl rfl hexec
  · rw [signedResult_underflow h] at hexec
    exact runScript_command_raise rfl rfl hexec

/-! ### TFR2 -/

/-- A normalized pair of words reads back from its two words. -/
theorem ratioOperand_words {r : Ratio} (h : r.wordPair = true) :
    ratioOperand (wordU r.mantissa) (wordU r.exponent.toNat) = r := by
  obtain ⟨⟨-, hm⟩, h0, h1⟩ := (Ratio.wordPair_iff r).1 h
  rw [ratioOperand, uword, uword, wordU_toNat (by omega), wordU_toNat (by omega), Int.toNat_of_nonneg h0]

/-- `TFNR` on the words of a pair evaluates the tick of the pair. -/
theorem exec_tfnr_words {r : Ratio} (h : r.wordPair = true) (s : State) :
    exec (.tfnr (wordU r.mantissa) (wordU r.exponent.toNat)) s =
      answer s (do let t ← tickOfRatio s.config r; return single (wordS t)) := by
  rw [exec, execTfnr, ratioOperand_words h]

/-- What `NORM` gives is a normalized pair of words. -/
theorem wordPair_of_normOperands {a b : Word} {r : Ratio} (h : normOperands a b = .ok r) : r.wordPair = true := by
  unfold normOperands at h
  split at h
  · cases h
  · next ha =>
    have hp := leadingBit_fls ha
    rw [normalizeRatio_eq hp] at h
    split at h
    · cases h
    · split at h
      · cases h
      · cases h
        rw [Ratio.wordPair_iff]
        unfold wordMax at *
        exact ⟨normalized_mantissaAt127 hp, by omega, by omega⟩

/-- The script of `TFR2` finishes, stops or is refused as `TFR` does (R76, R175). -/
theorem runScript_tfr2 (m e : Word) (s : State) :
    (∃ k bound, exec (.tfr m e) s = .next (s.deliver (.err k)) ∧
        runScript (tfr2Script m e) s [] = .stopped k bound) ∨
      (∃ t x y, exec (.tfr m e) s = .next (s.deliver (.ok t 0)) ∧
        runScript (tfr2Script m e) s [] = .finished [x, y, t, 0]) ∨
      ∃ why, exec (.tfr m e) s = .refused why ∧ runScript (tfr2Script m e) s [] = .refused why := by
  have hnorm : exec (.norm m e) s =
      answer s (do let r ← normOperands m e; return (wordU r.mantissa, wordU r.exponent.toNat)) := rfl
  have htfr : exec (.tfr m e) s =
      answer s (do let r ← normOperands m e; let t ← tickOfRatio s.config r; return single (wordS t)) := rfl
  rcases hn : normOperands m e with (k | _) | r
  · rw [hn, error_bind] at hnorm htfr
    exact .inl ⟨k, [], htfr, runScript_command_raise rfl rfl hnorm⟩
  · exact absurd hn (normOperands_inDomain m e)
  · rw [hn, ok_bind] at hnorm htfr
    have hscript := runScript_command_ok (l := ⟨0x40, .literal m, .literal e⟩)
      (rest := [⟨0x42, .name 0, .name 1⟩]) (bound := []) rfl rfl hnorm
    have htfnr := exec_tfnr_words (wordPair_of_normOperands hn) s
    rw [tfr2Script, hscript]
    rcases ht : tickOfRatio s.config r with (k | _) | t
    · rw [ht, error_bind] at htfnr htfr
      exact .inl ⟨k, _, htfr, runScript_command_raise rfl rfl htfnr⟩
    · rw [ht, error_bind] at htfnr htfr
      exact .inr (.inr ⟨_, htfr, runScript_command_outsideDomain rfl rfl htfnr⟩)
    · rw [ht, ok_bind] at htfnr htfr
      exact .inr (.inl ⟨_, _, _, htfr, runScript_command_ok rfl rfl htfnr⟩)

/-- Settles O59: the two ways a line can be answered, and the three pseudo-commands as scripts of such lines. -/
theorem scriptPseudoCommandsMatchTheirCommands : Obligations.ScriptPseudoCommandsMatchTheirCommands :=
  ⟨fun _ _ _ _ _ _ => runScript_cons_err, fun _ _ _ _ _ _ _ _ => runScript_cons_ok, runScript_negs, runScript_bin,
    runScript_tfr2⟩

/-! ### TFV and TFV2 -/

/-- The default sentinels are the ratios of the extreme ticks, as R76 asks. -/
theorem default_sentinelsAreExtreme : SentinelsAreExtreme Config.default := by
  unfold SentinelsAreExtreme
  decide +kernel

/-- `RFV`, then `TFNR` on its pair, `TFV`, and the script of `TFV2` all lead to one tick. -/
def TfvAgrees (a b : Word) (s : State) : Prop :=
  ∃ m e t : Word, exec (.rfv a b) s = .next (s.deliver (.ok m e)) ∧
    exec (.tfnr m e) s = .next (s.deliver (.ok t 0)) ∧ exec (.tfv a b) s = .next (s.deliver (.ok t 0)) ∧
    runScript (tfv2Script a b) s [] = .finished [m, e, t, 0]

/-- The ratio lies outside the ratio range: `TFNR` on the pair of `RFV` and the script of `TFV2` end with an error that
R202 does not allow `TFV`, which answers a tick of the legal range. -/
def Tfv2StopsOutOfRange (a b : Word) (s : State) : Prop :=
  ¬ VolumesInRange s.config a b ∧
    ∃ (m e : Word) (k : ErrorKind) (t : Int), exec (.rfv a b) s = .next (s.deliver (.ok m e)) ∧
      exec (.tfnr m e) s = .next (s.deliver (.err k)) ∧ runScript (tfv2Script a b) s [] = .stopped k [m, e] ∧
      (k = .tickTooLow ∨ k = .tickTooHigh) ∧ some k ∉ allowedStatuses (.tfv a b) ∧
      exec (.tfv a b) s = .next (s.deliver (.ok (wordS t) 0)) ∧ InTickRange t

section
variable {a b : Word} {s : State}

/-- Amounts above the ceiling are rejected by both commands, before anything else (R176, R177). -/
theorem exec_volumes_tooLarge (h : ¬ (a.toNat ≤ s.config.maxSafeVolume ∧ b.toNat ≤ s.config.maxSafeVolume)) :
    exec (.rfv a b) s = answer s (raise .volumeTooLarge) ∧ exec (.tfv a b) s = answer s (raise .volumeTooLarge) := by
  have hv : volumeCheck s.config a.toNat b.toNat = raise .volumeTooLarge := by rw [volumeCheck_eq, if_neg h]
  rw [exec, exec, execRfv, execTfv, hv]
  exact ⟨rfl, rfl⟩

/-- Under the ceiling `RFV` goes on to the zero amounts and the quotient (R176). -/
theorem exec_rfv_inCeiling (h : a.toNat ≤ s.config.maxSafeVolume ∧ b.toNat ≤ s.config.maxSafeVolume) :
    exec (.rfv a b) s = answer s (if b.toNat = 0 then sentinelWords s.config.maxRatio
      else if a.toNat = 0 then sentinelWords s.config.minRatio else ratioWords (volumeRatio a.toNat b.toNat)) := by
  rw [exec, execRfv, volumeCheck_eq, if_pos h, ok_bind]

/-- Under the ceiling `TFV` goes on to the zero amounts and the tick of the quotient (R177). -/
theorem exec_tfv_inCeiling (h : a.toNat ≤ s.config.maxSafeVolume ∧ b.toNat ≤ s.config.maxSafeVolume) :
    exec (.tfv a b) s = answer s (if b.toNat = 0 then .ok (single (wordS maxTick))
      else if a.toNat = 0 then .ok (single (wordS minTick))
      else do let t ← tickOfVolumes s.config a b; return single (wordS t)) := by
  rw [exec, execTfv, volumeCheck_eq, if_pos h, ok_bind]
  rfl

/-- Where `RFV` answers a pair that has a tick, and `TFV` answers that tick, the script of `TFV2` finishes with it. -/
theorem tfvAgrees_of_tick {r : Ratio} {t : Int} (hr : r.wordPair = true) (ht : tickOfRatio s.config r = .ok t)
    (hrfv : exec (.rfv a b) s = answer s (.ok (wordU r.mantissa, wordU r.exponent.toNat)))
    (htfv : exec (.tfv a b) s = answer s (.ok (single (wordS t)))) : TfvAgrees a b s := by
  have htfnr := exec_tfnr_words hr s
  rw [ht, ok_bind] at htfnr
  exact ⟨_, _, _, hrfv, htfnr, htfv, (runScript_command_ok rfl rfl hrfv).trans (runScript_command_ok rfl rfl htfnr)⟩

/-- Where `RFV` answers a pair outside the ratio range, `TFNR` and the script of `TFV2` end with the error of its side,
which R202 does not allow `TFV`. -/
theorem tfv2StopsOutOfRange_of_tick {r : Ratio} {t : Int} (hr : r.wordPair = true) (hout : ¬ InRatioRange s.config r)
    (hvolumes : ¬ VolumesInRange s.config a b) (ht : InTickRange t)
    (hrfv : exec (.rfv a b) s = answer s (.ok (wordU r.mantissa, wordU r.exponent.toNat)))
    (htfv : exec (.tfv a b) s = answer s (.ok (single (wordS t)))) : Tfv2StopsOutOfRange a b s := by
  obtain ⟨k, hside, hraise⟩ : ∃ k, (k = .tickTooLow ∨ k = .tickTooHigh) ∧ tickOfRatio s.config r = raise k := by
    obtain h | h := tickOfRatio_outOfRange hout
    · exact ⟨_, .inl rfl, h⟩
    · exact ⟨_, .inr rfl, h⟩
  have htfnr := exec_tfnr_words hr s
  rw [hraise, raise_bind] at htfnr
  have hstatus : some k ∉ allowedStatuses (.tfv a b) := by
    obtain rfl | rfl := hside <;> simp [allowedStatuses]
  exact ⟨hvolumes, _, _, k, t, hrfv, htfnr,
    (runScript_command_ok rfl rfl hrfv).trans (runScript_command_raise rfl rfl htfnr), hside, hstatus, htfv, ht⟩

/-- Inside the ratio range `TFNR` on a normalized pair gives the tick of R172. -/
theorem tickOfRatio_inRange {c : Config} {r : Ratio} (h : InRatioRange c r) (hn : r.normalized = true) :
    tickOfRatio c r = tfnr c r := by
  simp [tickOfRatio, h.1, h.2, hn]

/-- Two amounts under the ceiling, neither zero: the pair of `RFV` has the tick that `TFV` answers, or it lies outside
the ratio range and `TFV` answers a free tick. -/
theorem StoreAnswers.tfv_of_quotient (hc : StoreAnswers s.config)
    (hv : a.toNat ≤ s.config.maxSafeVolume ∧ b.toNat ≤ s.config.maxSafeVolume) (ha : a.toNat ≠ 0) (hb : b.toNat ≠ 0) :
    TfvAgrees a b s ∨ Tfv2StopsOutOfRange a b s := by
  have hlegal := hc.volumeRatio_legal ha hb hv.1 hv.2
  have hpair := Ratio.wordPair_of_legal hlegal
  have hrfv := exec_rfv_inCeiling hv
  have htfv := exec_tfv_inCeiling hv
  rw [if_neg hb, if_neg ha] at hrfv htfv
  rw [ratioWords_eq, if_pos hlegal] at hrfv
  by_cases hr : InRatioRange s.config (volumeRatio a.toNat b.toNat)
  · obtain ⟨t, ht, -⟩ := tfnr_isFloorTick (hr.covered hc.minCovered)
    have hnormalized : (volumeRatio a.toNat b.toNat).normalized = true :=
      (Ratio.normalized_iff _).2 ((Ratio.legal_iff _).1 hlegal).1
    rw [tickOfVolumes_inRange hr, ht, ok_bind] at htfv
    exact .inl (tfvAgrees_of_tick hpair ((tickOfRatio_inRange hr hnormalized).trans ht) hrfv htfv)
  · obtain ⟨t, ht, hrange⟩ := tickOfVolumes_outOfRange hr
    rw [ht, ok_bind] at htfv
    have hvolumes : ¬ VolumesInRange s.config a b := fun h => hr (h (fun h0 => ha (h0 ▸ rfl)) fun h0 => hb (h0 ▸ rfl))
    exact .inr (tfv2StopsOutOfRange_of_tick hpair hr hvolumes hrange hrfv htfv)

end

/-- Settles O60: the ceiling test, the two zero amounts with their sentinels, and the quotient. -/
theorem tfvIsRfvThenTfnr : Obligations.TfvIsRfvThenTfnr := by
  intro a b s h
  obtain ⟨hc, hmaxTick, hminTick⟩ : StoreAnswers s.config ∧ SentinelsAreExtreme s.config := by
    obtain h | ⟨hregular, hsentinels⟩ := h
    · rw [h]; exact ⟨default_storeAnswers, default_sentinelsAreExtreme⟩
    · exact ⟨hregular.storeAnswers, hsentinels⟩
  obtain ⟨hmin, hmax, -⟩ := Config.wellFormed_sentinels_volume hc.wellFormed
  by_cases hv : a.toNat ≤ s.config.maxSafeVolume ∧ b.toNat ≤ s.config.maxSafeVolume
  · right
    have hrfv := exec_rfv_inCeiling hv
    have htfv := exec_tfv_inCeiling hv
    by_cases hb : b.toNat = 0
    · rw [if_pos hb] at hrfv htfv
      rw [sentinelWords_eq, if_pos hmax] at hrfv
      exact .inl (tfvAgrees_of_tick hmax hmaxTick hrfv htfv)
    by_cases ha : a.toNat = 0
    · rw [if_neg hb, if_pos ha] at hrfv htfv
      rw [sentinelWords_eq, if_pos hmin] at hrfv
      exact .inl (tfvAgrees_of_tick hmin hminTick hrfv htfv)
    · exact hc.tfv_of_quotient hv ha hb
  · obtain ⟨hrfv, htfv⟩ := exec_volumes_tooLarge hv
    exact .inl ⟨hrfv, htfv, runScript_command_raise rfl rfl hrfv⟩

end Sys2Proof.Machine
end

section
/-! PROOFS. Word arithmetic (spec/40_word_arith.md): the wrapping family (O1 to O4), the checked family (O5 to O10), and
the relations between the two (O11). -/

namespace Sys2Proof.Machine

/-! ### The wrapping family as operations on bit vectors -/

theorem wordU_mul_two_pow (x : Word) (k : Nat) : wordU (x.toNat * 2 ^ k) = x <<< k := by
  apply BitVec.eq_of_toNat_eq
  rw [wordU, BitVec.toNat_ofNat, BitVec.toNat_shiftLeft, Nat.shiftLeft_eq]

theorem wordU_div_two_pow (x : Word) (k : Nat) : wordU (x.toNat / 2 ^ k) = x >>> k := by
  apply BitVec.eq_of_toNat_eq
  rw [wordU_toNat ((Nat.div_le_self _ _).trans_lt x.isLt), BitVec.toNat_ushiftRight, Nat.shiftRight_eq_div_pow]

theorem wordU_complement (x : Word) : wordU (2 ^ 256 - 1 - x.toNat) = ~~~x := by
  apply BitVec.eq_of_toNat_eq
  rw [wordU_toNat (by omega), BitVec.toNat_not]

/-- The complement in signed reading (R103). -/
theorem toInt_complement (x : Word) : (~~~x).toInt = -x.toInt - 1 := by
  have := x.isLt
  rw [BitVec.toInt_eq_toNat_cond, BitVec.toInt_eq_toNat_cond, BitVec.toNat_not]
  omega

/-- `SHL` is the shift by the whole amount: from 256 on that clears the word as well (R101). -/
theorem exec_shl (a b : Word) (s : State) : exec (.shl a b) s = .next (s.deliver (.ok (b <<< a.toNat) 0)) := by
  change answer s (.ok (single (if 256 ≤ a.toNat then 0 else wordU (b.toNat * 2 ^ a.toNat)))) = _
  split
  · rw [BitVec.shiftLeft_eq_zero ‹_›]; rfl
  · rw [wordU_mul_two_pow]; rfl

/-- `SHR` is the logical shift by the whole amount: from 256 on that clears the word as well (R102). -/
theorem exec_shr (a b : Word) (s : State) : exec (.shr a b) s = .next (s.deliver (.ok (b >>> a.toNat) 0)) := by
  change answer s (.ok (single (if 256 ≤ a.toNat then 0 else wordU (b.toNat / 2 ^ a.toNat)))) = _
  split
  · rw [BitVec.ushiftRight_eq_zero ‹_›]; rfl
  · rw [wordU_div_two_pow]; rfl

/-- `NOT` is the complement of the whole word (R103). -/
theorem exec_not (a : Word) (s : State) : exec (.not a) s = .next (s.deliver (.ok (~~~a) 0)) := by
  rw [← wordU_complement]; rfl

/-- Settles O1: the command is the shift of bit vectors, which is the product modulo the word. -/
theorem shlIsProductModuloWord : Obligations.ShlIsProductModuloWord := by
  intro a b s
  refine ⟨decode_make _ _ _, _, exec_shl a b s, ?_, BitVec.shiftLeft_eq_zero, ?_⟩
  · rw [BitVec.toNat_shiftLeft, Nat.shiftLeft_eq]
  · rintro rfl
    exact BitVec.shiftLeft_zero b

/-- Settles O2: the command is the logical shift of bit vectors; its bit 255 comes from beyond the word. -/
theorem shrIsFloorQuotient : Obligations.ShrIsFloorQuotient := by
  intro a b s
  refine ⟨decode_make _ _ _, _, exec_shr a b s, ?_, BitVec.ushiftRight_eq_zero, fun ha => ?_⟩
  · rw [BitVec.toNat_ushiftRight, Nat.shiftRight_eq_div_pow]
  · have hpos : a.toNat ≠ 0 := fun h => ha (BitVec.eq_of_toNat_eq h)
    rw [BitVec.getLsbD_ushiftRight]
    exact BitVec.getLsbD_of_ge b _ (by omega)

/-- Settles O3: the command is the complement of bit vectors. -/
theorem notInvertsAllBits : Obligations.NotInvertsAllBits := by
  intro a b s
  refine ⟨decode_make _ _ _, _, exec_not a s, BitVec.toNat_not, fun i hi => ?_, ?_⟩
  · rw [BitVec.getLsbD_not, decide_eq_true hi, Bool.true_and]
  · exact toInt_complement a

/-- Settles O4: both commands are the operations on bit vectors, which act on each bit. -/
theorem andOrActBitByBit : Obligations.AndOrActBitByBit := fun _ _ _ =>
  ⟨⟨decode_make _ _ _, _, rfl, fun _ _ => BitVec.getLsbD_and⟩,
    ⟨decode_make _ _ _, _, rfl, fun _ _ => BitVec.getLsbD_or⟩⟩

/-! ### The checked unsigned family -/

theorem unsignedResult_overflow {t : Int} (h : 2 ^ 256 ≤ t) : unsignedResult t = raise .overflow := by
  rw [unsignedResult, checkedUnsigned_eq, if_pos h, raise_bind]

theorem unsignedResult_underflow {t : Int} (h : t < 0) : unsignedResult t = raise .underflow := by
  rw [unsignedResult, checkedUnsigned_eq, if_neg (by omega), if_pos h, raise_bind]

theorem unsignedResult_inRange {t : Int} {n : Nat} (ht : t = n) (h : n < 2 ^ 256) :
    unsignedResult t = .ok (wordU n, 0) := by
  rw [unsignedResult, checkedUnsigned_ok.2 ⟨by omega, ht⟩, ok_bind]
  rfl

section
variable {i : Instr} {s : State} {t : Int}

/-- A command with an exact unsigned result inside the word answers it (R106). -/
theorem exec_unsigned_inRange {n : Nat} (hi : exec i s = answer s (unsignedResult t)) (ht : t = n)
    (h : n < 2 ^ 256) : ∃ r : Word, exec i s = .next (s.deliver (.ok r 0)) ∧ r.toNat = n :=
  ⟨wordU n, by rw [hi, unsignedResult_inRange ht h, answer_ok], wordU_toNat h⟩

/-- A command with an exact unsigned result above the word answers `Overflow` (R106). -/
theorem exec_unsigned_overflow (hi : exec i s = answer s (unsignedResult t)) (h : 2 ^ 256 ≤ t) :
    exec i s = .next (s.deliver (.err .overflow)) := by
  rw [hi, unsignedResult_overflow h, answer_raise, State.takeError_eq]

/-- A command with a negative exact unsigned result answers `Underflow` (R106). -/
theorem exec_unsigned_underflow (hi : exec i s = answer s (unsignedResult t)) (h : t < 0) :
    exec i s = .next (s.deliver (.err .underflow)) := by
  rw [hi, unsignedResult_underflow h, answer_raise, State.takeError_eq]

end

theorem exec_addu (a b : Word) (s : State) :
    exec (.addu a b) s = answer s (unsignedResult (a.toNat + b.toNat)) := rfl

theorem exec_subu (a b : Word) (s : State) :
    exec (.subu a b) s = answer s (unsignedResult (a.toNat - b.toNat)) := rfl

theorem exec_mulu (a b : Word) (s : State) :
    exec (.mulu a b) s = answer s (unsignedResult (a.toNat * b.toNat)) := rfl

/-- Settles O5: the range test on the exact sum. -/
theorem adduIsExactOrOverflows : Obligations.AdduIsExactOrOverflows := fun a b s =>
  ⟨decode_make _ _ _, exec_unsigned_inRange (exec_addu a b s) (by push_cast; rfl),
    fun h => exec_unsigned_overflow (exec_addu a b s) (by exact_mod_cast h)⟩

/-- Settles O6: the range test on the exact difference. -/
theorem subuIsExactOrUnderflows : Obligations.SubuIsExactOrUnderflows := fun a b s =>
  ⟨decode_make _ _ _, fun h => exec_unsigned_inRange (exec_subu a b s) (by omega) (by omega),
    fun h => exec_unsigned_underflow (exec_subu a b s) (by omega)⟩

/-- Settles O7: the range test on the exact product. -/
theorem muluIsExactOrOverflows : Obligations.MuluIsExactOrOverflows := fun a b s =>
  ⟨decode_make _ _ _, exec_unsigned_inRange (exec_mulu a b s) (by push_cast; rfl),
    fun h => exec_unsigned_overflow (exec_mulu a b s) (by exact_mod_cast h)⟩

/-! ### The checked signed family -/

/-- A command with an exact signed result answers it, or the kind of the side on which it leaves the range (R106). -/
theorem exec_signed {i : Instr} {s : State} {t : Int} (hi : exec i s = answer s (signedResult t)) :
    (-2 ^ 255 ≤ t → t < 2 ^ 255 → ∃ r : Word, exec i s = .next (s.deliver (.ok r 0)) ∧ r.toInt = t) ∧
      (2 ^ 255 ≤ t → exec i s = .next (s.deliver (.err .overflow))) ∧
      (t < -2 ^ 255 → exec i s = .next (s.deliver (.err .underflow))) := by
  refine ⟨fun hlow hhigh => ⟨wordS t, ?_, wordS_toInt hlow hhigh⟩, fun h => ?_, fun h => ?_⟩
  · rw [hi, signedResult_inRange hlow hhigh, answer_ok]
  · rw [hi, signedResult_overflow h, answer_raise, State.takeError_eq]
  · rw [hi, signedResult_underflow h, answer_raise, State.takeError_eq]

/-- Settles O8: the range test on the exact signed sum. -/
theorem addsIsExactOrLeavesTheRange : Obligations.AddsIsExactOrLeavesTheRange := fun _ _ _ =>
  ⟨decode_make _ _ _, exec_signed rfl⟩

/-- Settles O9: the range test on the exact signed difference. -/
theorem subsIsExactOrLeavesTheRange : Obligations.SubsIsExactOrLeavesTheRange := fun _ _ _ =>
  ⟨decode_make _ _ _, exec_signed rfl⟩

/-- Settles O10: the range test on the exact signed product. -/
theorem mulsIsExactOrLeavesTheRange : Obligations.MulsIsExactOrLeavesTheRange := fun _ _ _ =>
  ⟨decode_make _ _ _, exec_signed rfl⟩

/-! ### The relations between the two families -/

/-- `ADDU` answers the wrapping sum, or fails and the wrapping sum is below the first operand. -/
theorem exec_addu_wrapping (x y : Word) (s : State) :
    exec (.addu x y) s = .next (s.deliver (.ok (x + y) 0)) ∨
      exec (.addu x y) s = .next (s.deliver (.err .overflow)) ∧ (x + y).toNat < x.toNat := by
  obtain ⟨-, hexact, hoverflow⟩ := adduIsExactOrOverflows x y s
  have hsum : (x + y).toNat = (x.toNat + y.toNat) % 2 ^ 256 := BitVec.toNat_add x y
  by_cases h : x.toNat + y.toNat < 2 ^ 256
  · obtain ⟨r, hexec, hr⟩ := hexact h
    have : r = x + y := BitVec.eq_of_toNat_eq (by rw [hr, hsum, Nat.mod_eq_of_lt h])
    exact .inl (this ▸ hexec)
  · have := x.isLt; have := y.isLt
    exact .inr ⟨hoverflow (by omega), by omega⟩

/-- The negation by `SUBS` fails on the least signed word alone. -/
theorem exec_subs_zero_err_iff (x : Word) (s : State) :
    (∃ k, exec (.subs 0 x) s = .next (s.deliver (.err k))) ↔ x.toInt = -2 ^ 255 := by
  obtain ⟨hexact, hoverflow, -⟩ := exec_signed (exec_subs_zero x s)
  refine ⟨fun ⟨k, hk⟩ => ?_, fun h => ⟨_, hoverflow (by omega)⟩⟩
  by_contra hne
  have hlow : -2 ^ 255 ≤ x.toInt := x.le_toInt
  have hhigh : x.toInt < 2 ^ 255 := x.toInt_lt
  obtain ⟨r, hr, -⟩ := hexact (by omega) (by omega)
  exact nomatch hk.symm.trans hr

/-- `SHL` by less than the word is `MULU` by the power of two, where the product fits. -/
theorem exec_shl_eq_mulu {n x : Word} (hn : n.toNat < 256) (h : x.toNat * 2 ^ n.toNat < 2 ^ 256) (s : State) :
    exec (.shl n x) s = exec (.mulu x (wordU (2 ^ n.toNat))) s := by
  have hpow : (wordU (2 ^ n.toNat)).toNat = 2 ^ n.toNat := wordU_toNat (Nat.pow_lt_pow_right (by omega) hn)
  rw [exec_shl, exec_mulu, hpow, unsignedResult_inRange (by push_cast; rfl) h, answer_ok, wordU_mul_two_pow]

/-- `NOT` is `SUBU` from the greatest word, which never fails. -/
theorem exec_not_eq_subu (x : Word) (s : State) : exec (.not x) s = exec (.subu (wordU (2 ^ 256 - 1)) x) s := by
  have hmax : (wordU (2 ^ 256 - 1)).toNat = 2 ^ 256 - 1 := wordU_toNat (by omega)
  have hx := x.isLt
  rw [exec_not, exec_subu, hmax,
    unsignedResult_inRange (n := 2 ^ 256 - 1 - x.toNat) (by omega) (by omega), answer_ok, wordU_complement]

/-- Settles O11: each relation is a fact about one command of either family. -/
theorem wrappingAndCheckedFamiliesAgree : Obligations.WrappingAndCheckedFamiliesAgree := fun x y n s =>
  ⟨exec_addu_wrapping x y s, exec_subs_zero_err_iff x s, fun hn h => exec_shl_eq_mulu hn h s,
    fun _ => by rw [exec_shr, wordU_div_two_pow], exec_not_eq_subu x s⟩

end Sys2Proof.Machine
end

section
/-! PROOFS. The bit scans (spec/41_bitscan.md): the bisection forms (O14) and the commands `CTZ64` (O12) and `FLS`
(O13). -/

namespace Sys2Proof.Machine

/-! ### The lowest and the leading set bit -/

/-- `p` is the index of the lowest set bit of `y` (R130). -/
def LowestBit (y p : Nat) : Prop := (∀ i < p, y.testBit i = false) ∧ y.testBit p = true

/-- Every bit counted is clear, and the count stops at a set bit or at the width. -/
theorem trailingZeros_spec (width y : Nat) :
    (∀ i < trailingZeros width y, y.testBit i = false) ∧
      (trailingZeros width y < width → y.testBit (trailingZeros width y) = true) := by
  induction width generalizing y with
  | zero => exact ⟨fun _ hi => absurd hi (Nat.not_lt_zero _), fun h => absurd h (Nat.not_lt_zero _)⟩
  | succ n ih =>
    obtain ⟨hclear, hset⟩ := ih (y / 2)
    rw [trailingZeros]
    split
    · next hodd => exact ⟨fun _ hi => absurd hi (Nat.not_lt_zero _), fun _ => by simp [hodd]⟩
    · next heven =>
      refine ⟨fun i hi => ?_, fun h => ?_⟩
      · cases i with
        | zero => simp [heven]
        | succ j => rw [Nat.testBit_succ]; exact hclear j (Nat.lt_of_succ_lt_succ hi)
      · rw [Nat.testBit_succ]; exact hset (Nat.lt_of_succ_lt_succ h)

theorem trailingZeros_zero (width : Nat) : trailingZeros width 0 = width := by
  induction width with
  | zero => rfl
  | succ n ih => rw [trailingZeros, if_neg (by decide), Nat.zero_div, ih]

/-- Within the width the count of a value that is not zero is below the width and finds the lowest set bit. -/
theorem lowestBit_trailingZeros {width y : Nat} (h0 : y ≠ 0) (h : y < 2 ^ width) :
    trailingZeros width y < width ∧ LowestBit y (trailingZeros width y) := by
  obtain ⟨hclear, hset⟩ := trailingZeros_spec width y
  have hlt : trailingZeros width y < width := by
    by_contra hge
    refine h0 (Nat.zero_of_testBit_eq_false fun i => ?_)
    by_cases hi : i < width
    · exact hclear i (by omega)
    · exact Nat.testBit_lt_two_pow (h.trans_le (Nat.pow_le_pow_right Nat.two_pos (Nat.not_lt.1 hi)))
  exact ⟨hlt, hclear, hset hlt⟩

/-- `ctz64` counts the clear bits below the lowest set bit, among the low 64 bits (R130). -/
theorem ctz64_spec (x : Nat) :
    (∀ i < ctz64 x, x.testBit i = false) ∧ (ctz64 x < 64 → x.testBit (ctz64 x) = true) := by
  obtain ⟨hclear, hset⟩ := trailingZeros_spec 64 (x % 2 ^ 64)
  have hlow {i : Nat} (hi : i < 64) : (x % 2 ^ 64).testBit i = x.testBit i := by
    rw [Nat.testBit_mod_two_pow, decide_eq_true hi, Bool.true_and]
  have hle : ctz64 x ≤ 64 := trailingZeros_le _ _
  exact ⟨fun i hi => hlow (hi.trans_le hle) ▸ hclear i hi, fun h => hlow h ▸ hset h⟩

theorem LeadingBit.lt_of_lt_two_pow {x p n : Nat} (h : LeadingBit x p) (hx : x < 2 ^ n) : p < n :=
  (Nat.pow_lt_pow_iff_right (by decide)).1 (h.1.trans_lt hx)

/-! ### Bisection

Both forms halve a range of positions: a step for `k`, given that the position sought lies below `2 * k`, moves it below
`k` and adds to the count what it was moved by. -/

/-- The widths of the halvings of a range of `2^n` positions: `2^(n-1)`, and so on down to 1. -/
def halvingWidths : Nat → List Nat
  | 0 => []
  | n + 1 => 2 ^ n :: halvingWidths n

/-- The halving `halve`, on a value and a count, keeps count plus position of the bit that `IsBit` describes, and brings
the position below the halving's width. -/
def HalvingTracks (IsBit : Nat → Nat → Prop) (halve : Nat × Nat → Nat → Nat × Nat) : Prop :=
  ∀ (acc : Nat × Nat) (k p : Nat), IsBit acc.1 p → p < 2 * k →
    ∃ q < k, IsBit (halve acc k).1 q ∧ (halve acc k).2 + q = acc.2 + p

/-- Halvings that track a bit count up to its position. -/
theorem HalvingTracks.foldl_count {IsBit : Nat → Nat → Prop} {halve : Nat × Nat → Nat → Nat × Nat}
    (h : HalvingTracks IsBit halve) (n : Nat) {acc : Nat × Nat} {p : Nat} (hp : IsBit acc.1 p) (hlt : p < 2 ^ n) :
    ((halvingWidths n).foldl halve acc).2 = acc.2 + p := by
  induction n generalizing acc p with
  | zero => rw [Nat.lt_one_iff.1 hlt]; rfl
  | succ n ih =>
    obtain ⟨q, hq, hbit, hsum⟩ := h acc (2 ^ n) p hp (Nat.pow_succ' ▸ hlt)
    rw [halvingWidths, List.foldl_cons, ih hbit hq, hsum]

/-- A step of R131 drops `k` low bits exactly when the lowest set bit is not among them. -/
theorem ctzHalving_tracks : HalvingTracks LowestBit ctzHalving := by
  rintro ⟨y, n⟩ k p ⟨hclear, hset⟩ hp
  unfold ctzHalving
  by_cases hk : p < k
  · have hbit : (y % 2 ^ k).testBit p = true := by
      rw [Nat.testBit_mod_two_pow, decide_eq_true hk, hset, Bool.true_and]
    rw [if_neg fun h => by simp [h] at hbit]
    exact ⟨p, hk, ⟨hclear, hset⟩, rfl⟩
  · have hmod : y % 2 ^ k = 0 := Nat.zero_of_testBit_eq_false fun i => by
      rw [Nat.testBit_mod_two_pow]
      by_cases hi : i < k
      · rw [hclear i (by omega), Bool.and_false]
      · rw [decide_eq_false hi, Bool.false_and]
    rw [if_pos hmod]
    refine ⟨p - k, by omega, ⟨fun i hi => ?_, ?_⟩, by omega⟩
    · rw [Nat.testBit_div_two_pow]; exact hclear _ (by omega)
    · rw [Nat.testBit_div_two_pow, Nat.sub_add_cancel (Nat.not_lt.1 hk)]; exact hset

/-- A step of R133 drops `k` low bits exactly when the leading bit is not among them. -/
theorem flsHalving_tracks : HalvingTracks LeadingBit flsHalving := by
  rintro ⟨x, r⟩ k p hbit hp
  obtain ⟨hle, hlt⟩ := hbit
  unfold flsHalving
  by_cases hk : 2 ^ k ≤ x
  · have hkp : k < p + 1 := (Nat.pow_lt_pow_iff_right (by decide)).1 (hk.trans_lt hlt)
    rw [if_pos hk]
    refine ⟨p - k, by omega, ⟨?_, ?_⟩, by omega⟩
    · rw [Nat.le_div_iff_mul_le (Nat.two_pow_pos k), ← Nat.pow_add, Nat.sub_add_cancel (by omega)]
      exact hle
    · rw [Nat.div_lt_iff_lt_mul (Nat.two_pow_pos k), ← Nat.pow_add, show p - k + 1 + k = p + 1 by omega]
      exact hlt
  · rw [if_neg hk]
    exact ⟨p, LeadingBit.lt_of_lt_two_pow ⟨hle, hlt⟩ (Nat.not_le.1 hk), ⟨hle, hlt⟩, rfl⟩

/-- The six halvings of a 64-bit range find the lowest set bit (R131). -/
theorem ctz64Bisection_eq (x : Nat) : ctz64Bisection x = ctz64 x := by
  unfold ctz64Bisection ctz64
  split
  · next h0 => rw [h0, trailingZeros_zero]
  · next h0 =>
    obtain ⟨hlt, hbit⟩ := lowestBit_trailingZeros h0 (Nat.mod_lt x (Nat.two_pow_pos 64))
    exact (ctzHalving_tracks.foldl_count 6 hbit hlt).trans (Nat.zero_add _)

/-- The eight halvings of a 256-bit range find the leading bit (R133). -/
theorem flsBisection_eq {x : Nat} (hx : x < 2 ^ 256) : flsBisection x = fls x := by
  unfold flsBisection
  split
  · next h0 => rw [h0, fls_zero]
  · next h0 =>
    have hbit := leadingBit_fls h0
    exact (flsHalving_tracks.foldl_count 8 hbit (hbit.lt_of_lt_two_pow hx)).trans (Nat.zero_add _)

/-- Settles O14: the halvings of either form track the bit that the function finds. -/
theorem bisectionFormsMeetTheContract : Obligations.BisectionFormsMeetTheContract := fun x hx =>
  ⟨ctz64Bisection_eq x, flsBisection_eq hx⟩

/-! ### The commands -/

theorem exec_ctz64 (a : Word) (s : State) :
    exec (.ctz64 a) s = .next (s.deliver (.ok (wordU (ctz64 a.toNat)) 0)) := rfl

theorem exec_fls (a : Word) (s : State) : exec (.fls a) s = .next (s.deliver (.ok (wordU (fls a.toNat)) 0)) := rfl

/-- Settles O12: the count fits the word, and its specification is read bit by bit. -/
theorem ctzIsLeastSetBitOfLowHalf : Obligations.CtzIsLeastSetBitOfLowHalf := by
  intro a b s
  have hle : ctz64 a.toNat ≤ 64 := trailingZeros_le _ _
  obtain ⟨hclear, hset⟩ := ctz64_spec a.toNat
  refine ⟨decode_make _ _ _, _, exec_ctz64 a s, ?_⟩
  rw [wordU_toNat (by omega)]
  exact ⟨hle, hclear, hset⟩

/-- Settles O13: the leading bit of a word lies in the word, is set, and has no set bit above it. -/
theorem flsIsGreatestSetBit : Obligations.FlsIsGreatestSetBit := by
  intro a b s
  refine ⟨decode_make _ _ _, _, exec_fls a s, ?_, fun ha => ?_⟩
  · rintro rfl
    rfl
  · have hbit : LeadingBit a.toNat (fls a.toNat) := leadingBit_fls fun h => ha (BitVec.eq_of_toNat_eq h)
    have hlt : fls a.toNat < 256 := hbit.lt_of_lt_two_pow a.isLt
    rw [wordU_toNat (by omega)]
    exact ⟨hbit, Nat.testBit_of_two_pow_le_and_two_pow_add_one_gt hbit.1 hbit.2, fun i hi =>
      Nat.testBit_lt_two_pow (hbit.2.trans_le (Nat.pow_le_pow_right Nat.two_pos hi))⟩

end Sys2Proof.Machine
end

section
/-! PROOFS. The density codec (spec/42_density.md): the commands `DFROM` (O15), `DTO` (O16), `DMUL` (O17) and `DMULUP`
(O18), the loss of the round trip (O19), the codec as an order embedding (O20), and the relation of the two products
(O21). -/

namespace Sys2Proof.Machine

theorem wordU_toNat_self (w : Word) : wordU w.toNat = w := BitVec.eq_of_toNat_eq (wordU_toNat w.isLt)

/-! ### The value of a density

From 8 on the words are the normal densities in order: the step from one value to the next is a unit of the exponent,
also where the mantissa field wraps. -/

theorem densityValue_subnormal {d : Nat} (h : d < 4) : densityValue d = d := if_pos h

theorem densityValue_normal {d : Nat} (h : 8 ≤ d) : densityValue d = (4 + d % 4) * 2 ^ (d / 4 - 2) :=
  if_neg (by omega)

theorem CanonicalDensity.subnormal_or_normal {d : Nat} (h : CanonicalDensity d) : d < 4 ∨ 8 ≤ d := by
  obtain ⟨-, hfield⟩ := h
  omega

theorem densityValue_succ {d : Nat} (h : 8 ≤ d) : densityValue (d + 1) = densityValue d + 2 ^ (d / 4 - 2) := by
  rw [densityValue_normal h, densityValue_normal (by omega)]
  rcases Nat.lt_or_ge (d % 4) 3 with hm | hm
  · rw [show (d + 1) / 4 = d / 4 by omega, show (d + 1) % 4 = d % 4 + 1 by omega]
    ring
  · rw [show (d + 1) / 4 - 2 = d / 4 - 2 + 1 by omega, show (d + 1) % 4 = 0 by omega, show d % 4 = 3 by omega]
    ring

theorem four_units_le_densityValue {d : Nat} (h : 8 ≤ d) : 4 * 2 ^ (d / 4 - 2) ≤ densityValue d := by
  rw [densityValue_normal h]
  exact Nat.mul_le_mul_right _ (Nat.le_add_right _ _)

theorem densityValue_mono {d d' : Nat} (h : 8 ≤ d) (hle : d ≤ d') : densityValue d ≤ densityValue d' := by
  induction d', hle using Nat.le_induction with
  | base => exact le_rfl
  | succ n hn ih => exact ih.trans (densityValue_succ (h.trans hn) ▸ Nat.le_add_right _ _)

theorem densityValue_strictMono {d d' : Nat} (hd : CanonicalDensity d) (hd' : CanonicalDensity d') (hlt : d < d') :
    densityValue d < densityValue d' := by
  rcases hd.subnormal_or_normal with h | h
  · rw [densityValue_subnormal h]
    rcases hd'.subnormal_or_normal with h' | h'
    · rwa [densityValue_subnormal h']
    · exact h.trans_le (densityValue_mono (d := 8) le_rfl h')
  · calc densityValue d < densityValue (d + 1) := by
          rw [densityValue_succ h]; exact Nat.lt_add_of_pos_right (Nat.two_pow_pos _)
      _ ≤ densityValue d' := densityValue_mono (by omega) hlt

/-- A density stands for a 96.32 value of 128 bits: the greatest is `7 * 2^125` (R26). -/
theorem CanonicalDensity.densityValue_lt {d : Nat} (h : CanonicalDensity d) : densityValue d < 2 ^ 128 := by
  rcases h.subnormal_or_normal with hs | hn
  · rw [densityValue_subnormal hs]; omega
  · exact (densityValue_mono hn (Nat.le_of_lt_succ h.1)).trans_lt (by decide : densityValue 511 < 2 ^ 128)

/-! ### The encoder

It finds the greatest density whose value does not exceed its argument. -/

theorem densityEncode_subnormal {x : Nat} (h : x ≤ 3) : densityEncode x = x := if_pos h

/-- The encoding of a value of 4 or more, by its leading bit. -/
theorem densityEncode_normal {x p : Nat} (h : 4 ≤ x) (hp : LeadingBit x p) :
    densityEncode x = p * 4 + x / 2 ^ (p - 2) % 4 := by
  rw [densityEncode, hp.fls_eq, if_neg (by unfold densityMantissaMask; omega)]
  rfl

theorem LeadingBit.two_le {x p : Nat} (hp : LeadingBit x p) (h : 4 ≤ x) : 2 ≤ p := by
  have : 2 ^ 2 < 2 ^ (p + 1) := lt_of_le_of_lt h hp.2
  have := (Nat.pow_lt_pow_iff_right (by decide)).1 this
  omega

/-- A value of 4 or more lies between the value of its encoding and that of the next word. -/
theorem densityEncode_brackets {x : Nat} (h : 4 ≤ x) :
    8 ≤ densityEncode x ∧ densityValue (densityEncode x) ≤ x ∧ x < densityValue (densityEncode x + 1) := by
  obtain ⟨p, hp⟩ : ∃ p, LeadingBit x p := ⟨_, leadingBit_fls (by omega)⟩
  obtain ⟨k, rfl⟩ := Nat.exists_eq_add_of_le' (hp.two_le h)
  obtain ⟨hlow, hhigh⟩ := hp
  have hunit : 0 < 2 ^ k := Nat.two_pow_pos k
  have hpow : 2 ^ (k + 2) = 4 * 2 ^ k := by ring
  have hq4 : 4 ≤ x / 2 ^ k := by rw [Nat.le_div_iff_mul_le hunit]; omega
  have hq8 : x / 2 ^ k < 8 := by rw [Nat.div_lt_iff_lt_mul hunit]; omega
  have hcode : densityEncode x = (k + 2) * 4 + x / 2 ^ k % 4 := densityEncode_normal h ⟨hlow, hhigh⟩
  have hnormal : 8 ≤ densityEncode x := by omega
  have hvalue : densityValue (densityEncode x) = x / 2 ^ k * 2 ^ k := by
    rw [densityValue_normal hnormal, show densityEncode x / 4 - 2 = k by omega,
      show 4 + densityEncode x % 4 = x / 2 ^ k by omega]
  refine ⟨hnormal, hvalue ▸ Nat.div_mul_le_self x _, ?_⟩
  rw [densityValue_succ hnormal, hvalue, show densityEncode x / 4 - 2 = k by omega]
  exact Nat.lt_div_mul_add hunit

theorem densityEncode_canonical {x : Nat} (hx : x < 2 ^ 128) : CanonicalDensity (densityEncode x) := by
  rcases Nat.lt_or_ge x 4 with h | h
  · rw [densityEncode_subnormal (by omega)]
    exact ⟨by omega, by omega⟩
  · have hp : LeadingBit x (fls x) := leadingBit_fls (by omega)
    have := hp.two_le h
    have := hp.lt_of_lt_two_pow hx
    rw [densityEncode_normal h hp]
    exact ⟨by omega, by omega⟩

theorem densityValue_densityEncode_le (x : Nat) : densityValue (densityEncode x) ≤ x := by
  rcases Nat.lt_or_ge x 4 with h | h
  · rw [densityEncode_subnormal (by omega), densityValue_subnormal h]
  · exact (densityEncode_brackets h).2.1

theorem le_densityEncode {d x : Nat} (hd : CanonicalDensity d) (h : densityValue d ≤ x) : d ≤ densityEncode x := by
  by_contra! hlt
  rcases Nat.lt_or_ge x 4 with hx | hx
  · rw [densityEncode_subnormal (by omega)] at hlt
    have hcx : CanonicalDensity x := ⟨by omega, by omega⟩
    have := densityValue_strictMono hcx hd hlt
    rw [densityValue_subnormal hx] at this
    omega
  · obtain ⟨hnormal, -, hnext⟩ := densityEncode_brackets hx
    have := densityValue_mono (by omega : 8 ≤ densityEncode x + 1) hlt
    omega

/-- Encoding is monotone, since the density of the smaller value does not exceed the larger value (R147 c). -/
theorem densityEncode_mono {x x' : Nat} (h : x ≤ x') (hx' : x' < 2 ^ 128) : densityEncode x ≤ densityEncode x' :=
  le_densityEncode (densityEncode_canonical (h.trans_lt hx')) ((densityValue_densityEncode_le x).trans h)

/-- Encoding the value of a density gives the density back, since no greater one has a value as small (R143). -/
theorem densityEncode_densityValue {d : Nat} (h : CanonicalDensity d) : densityEncode (densityValue d) = d := by
  refine le_antisymm ?_ (le_densityEncode h le_rfl)
  by_contra! hlt
  have := densityValue_strictMono h (densityEncode_canonical h.densityValue_lt) hlt
  exact (densityValue_densityEncode_le _).not_gt this

/-- What encoding drops is less than a unit, and a normal density has at least four of them (R147 a). -/
theorem four_mul_le_five_mul_densityValue (x : Nat) : 4 * x ≤ 5 * densityValue (densityEncode x) := by
  rcases Nat.lt_or_ge x 4 with h | h
  · rw [densityEncode_subnormal (by omega), densityValue_subnormal h]
    omega
  · obtain ⟨hnormal, -, hnext⟩ := densityEncode_brackets h
    rw [densityValue_succ hnormal] at hnext
    have := four_units_le_densityValue hnormal
    omega

/-! ### The codec commands -/

theorem exec_dfrom_tooLarge {a : Word} (h : 2 ^ 128 ≤ a.toNat) (s : State) :
    exec (.dfrom a) s = .next (s.deliver (.err .invalidDensity)) := by
  change answer s (fixOperand a >>= _) = _
  rw [fixOperand_eq, if_neg (by omega), raise_bind, answer_raise, State.takeError_eq]

theorem exec_dfrom_fits {a : Word} (h : a.toNat < 2 ^ 128) (s : State) :
    exec (.dfrom a) s = .next (s.deliver (.ok (wordU (densityEncode a.toNat)) 0)) := by
  change answer s (fixOperand a >>= _) = _
  rw [fixOperand_eq, if_pos h]
  rfl

theorem exec_dto_canonical {a : Word} (h : CanonicalDensity a.toNat) (s : State) :
    exec (.dto a) s = .next (s.deliver (.ok (wordU (densityValue a.toNat)) 0)) := by
  change answer s (densityDecode a.toNat >>= _) = _
  rw [densityDecode_canonical h]
  rfl

theorem exec_dto_rejects {a : Word} (h : ¬ CanonicalDensity a.toNat) (s : State) :
    exec (.dto a) s = .next (s.deliver (.err .invalidDensity)) := by
  change answer s (densityDecode a.toNat >>= _) = _
  rw [densityDecode_rejects h, raise_bind, answer_raise, State.takeError_eq]

theorem CanonicalDensity.word_toNat {d : Nat} (h : CanonicalDensity d) : (wordU d).toNat = d :=
  wordU_toNat (h.1.trans (by decide))

theorem CanonicalDensity.valueWord_toNat {d : Nat} (h : CanonicalDensity d) :
    (wordU (densityValue d)).toNat = densityValue d := wordU_toNat (h.densityValue_lt.trans (by decide))

/-- Settles O15: the range test, then the encoding by its two cases. -/
theorem dfromEncodesOrRejects : Obligations.DfromEncodesOrRejects := by
  intro a b s
  refine ⟨decode_make _ _ _, fun h => exec_dfrom_tooLarge h s, fun h => ⟨_, exec_dfrom_fits h s, ?_⟩⟩
  have hc := densityEncode_canonical h
  rw [hc.word_toNat]
  refine ⟨hc, fun h3 => ?_, fun p hp h4 => densityEncode_normal h4 hp⟩
  rw [densityEncode_subnormal h3, wordU_toNat_self]

/-- Settles O16: the decoder, by whether the word is a canonical density. -/
theorem dtoDecodesOrRejects : Obligations.DtoDecodesOrRejects := fun _ _ s =>
  ⟨decode_make _ _ _, fun h => ⟨_, exec_dto_canonical h s, h.valueWord_toNat⟩, fun h => exec_dto_rejects h s⟩

/-- Settles O19: what the encoder answers is a canonical density, so that the decoder answers its value. -/
theorem densityRoundTripLosesAtMostAFifth : Obligations.DensityRoundTripLosesAtMostAFifth := by
  intro x s hx
  have hc := densityEncode_canonical hx
  have hword : CanonicalDensity (wordU (densityEncode x.toNat)).toNat := by rwa [hc.word_toNat]
  refine ⟨_, _, exec_dfrom_fits hx s, exec_dto_canonical hword s, ?_⟩
  rw [hword.valueWord_toNat, hc.word_toNat]
  exact ⟨densityValue_densityEncode_le _, four_mul_le_five_mul_densityValue _⟩

/-- `DFROM` turns the answer of `DTO` back into the density (R143). -/
theorem exec_dfrom_densityValue {d : Word} (h : CanonicalDensity d.toNat) (s : State) :
    exec (.dfrom (wordU (densityValue d.toNat))) s = .next (s.deliver (.ok d 0)) := by
  have hvalue := h.valueWord_toNat
  rw [exec_dfrom_fits (hvalue.trans_lt h.densityValue_lt), hvalue, densityEncode_densityValue h, wordU_toNat_self]

/-- Settles O20: values of densities are strictly ordered, and the encoder finds the greatest density whose value does
not exceed its argument. -/
theorem densityCodecIsMonotoneAndFaithful : Obligations.DensityCodecIsMonotoneAndFaithful := by
  intro d d' x x' s
  refine ⟨fun hd => ⟨_, exec_dto_canonical hd s, exec_dfrom_densityValue hd s⟩, fun hd hd' hlt => ?_,
    fun hle hx' => ?_⟩
  · refine ⟨_, _, exec_dto_canonical hd s, exec_dto_canonical hd' s, ?_⟩
    rw [hd.valueWord_toNat, hd'.valueWord_toNat]
    exact densityValue_strictMono hd hd' hlt
  · have hx := hle.trans_lt hx'
    refine ⟨_, _, exec_dfrom_fits hx s, exec_dfrom_fits hx' s, ?_⟩
    rw [(densityEncode_canonical hx).word_toNat, (densityEncode_canonical hx').word_toNat]
    exact densityEncode_mono hle hx'

/-! ### Quotients rounded up -/

/-- The ceiling of the quotient, as a floor (R146, R190). -/
theorem ceilShift_eq_add_div (n k : Nat) : ceilShift n k = (n + (2 ^ k - 1)) / 2 ^ k := by
  have hpos : 0 < 2 ^ k := Nat.two_pow_pos k
  have hcarry : 2 ^ k ≤ n % 2 ^ k + (2 ^ k - 1) ↔ ¬ n % 2 ^ k = 0 := by omega
  rw [ceilShift_eq, Nat.add_div hpos, Nat.mod_eq_of_lt (by omega : 2 ^ k - 1 < 2 ^ k),
    Nat.div_eq_of_lt (by omega : 2 ^ k - 1 < 2 ^ k), Nat.add_zero, ite_cond_congr (propext hcarry), ite_not]

/-- Rounding up gives no more than the number itself: where there is a remainder, the number is not 0. -/
theorem ceilShift_le (n k : Nat) : ceilShift n k ≤ n := by
  rcases Nat.eq_zero_or_pos n with rfl | hn
  · simp [ceilShift]
  · have hpos : 0 < 2 ^ k := Nat.two_pow_pos k
    rw [ceilShift_eq_add_div, Nat.div_le_iff_le_mul_add_pred hpos]
    exact Nat.add_le_add_right (Nat.le_mul_of_pos_left n hpos) _

/-- The words of a quotient rounded up and rounded down differ by 0 or 1. -/
theorem wordU_ceilShift {n k : Nat} (h : n < 2 ^ 256) :
    wordU (ceilShift n k) = wordU (n / 2 ^ k) ∨ (wordU (ceilShift n k)).toNat = (wordU (n / 2 ^ k)).toNat + 1 := by
  have hup := (ceilShift_le n k).trans_lt h
  have hdown := (Nat.div_le_self n (2 ^ k)).trans_lt h
  rw [wordU_toNat hup, wordU_toNat hdown, ceilShift]
  split
  · exact .inl rfl
  · exact .inr rfl

/-! ### The products -/

/-- What `DMUL` and `DMULUP` compute, in the same order, up to the rounding (R145, R146). -/
def roundedProduct (round : Nat → Nat) (a b : Word) : Eval (Word × Word) := do
  let p ← densityProduct a.toNat b.toNat
  return single (wordU (round p))

theorem exec_dmul (a b : Word) (s : State) : exec (.dmul a b) s = answer s (roundedProduct (· / 2 ^ 32) a b) := rfl

theorem exec_dmulup (a b : Word) (s : State) : exec (.dmulup a b) s = answer s (roundedProduct (ceilShift · 32) a b) :=
  rfl

section
variable {round : Nat → Nat} {a b : Word}

theorem roundedProduct_rejects (h : ¬ CanonicalDensity a.toNat) :
    roundedProduct round a b = raise .invalidDensity := by
  rw [roundedProduct, densityProduct, densityDecode_rejects h, raise_bind, raise_bind]

theorem roundedProduct_overflow (h : CanonicalDensity a.toNat) (hp : 2 ^ 256 ≤ densityValue a.toNat * b.toNat) :
    roundedProduct round a b = raise .overflow := by
  rw [roundedProduct, densityProduct, densityDecode_canonical h, ok_bind, checkedUnsigned_eq,
    if_pos (by exact_mod_cast hp), raise_bind]

theorem roundedProduct_inRange (h : CanonicalDensity a.toNat) (hp : densityValue a.toNat * b.toNat < 2 ^ 256) :
    roundedProduct round a b = .ok (wordU (round (densityValue a.toNat * b.toNat)), 0) := by
  have hok : checkedUnsigned (densityValue a.toNat * b.toNat) = .ok (densityValue a.toNat * b.toNat) :=
    checkedUnsigned_ok.2 ⟨by exact_mod_cast hp, by push_cast; rfl⟩
  rw [roundedProduct, densityProduct, densityDecode_canonical h, ok_bind, hok, ok_bind]
  rfl

/-- A command that rounds the product fails in the order of R145, and else answers the rounded product. -/
theorem exec_roundedProduct {i : Instr} {s : State} (hi : exec i s = answer s (roundedProduct round a b))
    (hround : ∀ n, round n ≤ n) :
    (¬ CanonicalDensity a.toNat → exec i s = .next (s.deliver (.err .invalidDensity))) ∧
      (CanonicalDensity a.toNat → 2 ^ 256 ≤ densityValue a.toNat * b.toNat →
        exec i s = .next (s.deliver (.err .overflow))) ∧
      (CanonicalDensity a.toNat → densityValue a.toNat * b.toNat < 2 ^ 256 →
        ∃ r : Word, exec i s = .next (s.deliver (.ok r 0)) ∧ r.toNat = round (densityValue a.toNat * b.toNat)) := by
  refine ⟨fun h => ?_, fun h hp => ?_, fun h hp => ⟨_, ?_, wordU_toNat ((hround _).trans_lt hp)⟩⟩
  · rw [hi, roundedProduct_rejects h, answer_raise, State.takeError_eq]
  · rw [hi, roundedProduct_overflow h hp, answer_raise, State.takeError_eq]
  · rw [hi, roundedProduct_inRange h hp, answer_ok]

end

/-- Settles O17: the rounding is the quotient's floor. -/
theorem dmulIsFloorOfProduct : Obligations.DmulIsFloorOfProduct := fun a b s =>
  ⟨decode_make _ _ _, exec_roundedProduct (exec_dmul a b s) fun n => Nat.div_le_self n _⟩

/-- Settles O18: the rounding is the quotient's ceiling. -/
theorem dmulupIsCeilingOfProduct : Obligations.DmulupIsCeilingOfProduct := by
  intro a b s
  refine ⟨decode_make _ _ _, ?_⟩
  simp only [← ceilShift_eq_add_div]
  exact exec_roundedProduct (exec_dmulup a b s) fun n => ceilShift_le n 32

/-- Settles O21: both commands make the same tests before they round. -/
theorem dmulupExceedsDmulByAtMostOne : Obligations.DmulupExceedsDmulByAtMostOne := by
  intro a b s
  rw [exec_dmul, exec_dmulup]
  by_cases hc : CanonicalDensity a.toNat
  · rcases Nat.lt_or_ge (densityValue a.toNat * b.toNat) (2 ^ 256) with hp | hp
    · rw [roundedProduct_inRange hc hp, roundedProduct_inRange hc hp]
      exact .inr ⟨_, _, rfl, rfl, wordU_ceilShift hp⟩
    · rw [roundedProduct_overflow hc hp, roundedProduct_overflow hc hp]
      exact .inl ⟨_, rfl, rfl⟩
  · rw [roundedProduct_rejects hc, roundedProduct_rejects hc]
    exact .inl ⟨_, rfl, rfl⟩

end Sys2Proof.Machine
end

section
/-! PROOFS. The normalizer and the tick and ratio commands under any constant store (spec/43_ratio_tick.md): `NORM` (O22),
the reciprocal step (O23), `RFT` (O24), `TFNR` (O29), `TFR` (O34, O35), `RFV` (O36) and `TFV` (O37). -/

namespace Sys2Proof.Machine

/-! ### Words of a pair -/

theorem Word.toNat_ne_zero {w : Word} (h : w ≠ 0) : w.toNat ≠ 0 := fun h0 => h (BitVec.eq_of_toNat_eq h0)

/-- The two words of a pair carry its two integers. -/
theorem Ratio.words_toNat {r : Ratio} (h : r.wordPair = true) :
    (wordU r.mantissa).toNat = r.mantissa ∧ ((wordU r.exponent.toNat).toNat : Int) = r.exponent := by
  obtain ⟨⟨-, hm⟩, h0, h1⟩ := (Ratio.wordPair_iff r).1 h
  exact ⟨wordU_toNat (by omega), by rw [wordU_toNat (by omega), Int.toNat_of_nonneg h0]⟩

theorem Ratio.normalized_of_wordPair {r : Ratio} (h : r.wordPair = true) : r.normalized = true :=
  (Ratio.normalized_iff r).2 ((Ratio.wordPair_iff r).1 h).1

/-- A mantissa whose leading bit is bit 127 is left as it is. -/
theorem mantissaAt127_self (m : Nat) : mantissaAt127 m 127 = m := by
  rw [mantissaAt127, if_pos le_rfl, Nat.sub_self, Nat.pow_zero, Nat.mul_one]

/-! ### NORM -/

theorem exec_norm (a b : Word) (s : State) : exec (.norm a b) s =
    answer s (do let r ← normOperands a b; return (wordU r.mantissa, wordU r.exponent.toNat)) := rfl

theorem normOperands_zero (b : Word) : normOperands 0 b = raise .zeroMantissa := rfl

/-- The operands of `NORM` with a mantissa that is not zero, by its leading bit and by where the exponent lies (R162). -/
theorem normOperands_eq {a : Word} {p : Nat} (hp : LeadingBit a.toNat p) (b : Word) : normOperands a b =
    if (b.toNat : Int) + 127 - p < 0 then raise .tickTooHigh
    else if 2 ^ 256 ≤ (b.toNat : Int) + 127 - p then raise .overflow
    else .ok ⟨mantissaAt127 a.toNat p, (b.toNat : Int) + 127 - p⟩ := by
  have ha : a.toNat ≠ 0 := ((Nat.two_pow_pos p).trans_le hp.1).ne'
  unfold normOperands wordMax uword
  rw [if_neg ha, normalizeRatio_eq hp]
  congr 1

theorem normOperands_ok {a b : Word} {p : Nat} (hp : LeadingBit a.toNat p) (h0 : 0 ≤ (b.toNat : Int) + 127 - p)
    (h1 : (b.toNat : Int) + 127 - p < 2 ^ 256) :
    normOperands a b = .ok ⟨mantissaAt127 a.toNat p, (b.toNat : Int) + 127 - p⟩ := by
  rw [normOperands_eq hp, if_neg (by omega), if_neg (by omega)]

/-- Settles O22: a zero mantissa, and the three ranges of the exponent of one that is not zero. -/
theorem normNormalizesOrFailsInOrder : Obligations.NormNormalizesOrFailsInOrder := by
  intro a b s
  refine ⟨decode_make _ _ _, ?_, fun p hp => ⟨fun hlow => ?_, fun hhigh => ?_, fun h0 h1 => ?_⟩⟩
  · rintro rfl
    rw [exec_norm, normOperands_zero, raise_bind, answer_raise, State.takeError_eq]
  · rw [exec_norm, normOperands_eq hp, if_pos hlow, raise_bind, answer_raise, State.takeError_eq]
  · rw [exec_norm, normOperands_eq hp, if_neg (by omega), if_pos hhigh, raise_bind, answer_raise, State.takeError_eq]
  · have hok := normOperands_ok hp h0 h1
    obtain ⟨hm, he⟩ := Ratio.words_toNat (wordPair_of_normOperands hok)
    obtain ⟨hge, hlt⟩ := normalized_mantissaAt127 hp
    refine ⟨_, _, by rw [exec_norm, hok]; rfl, hm, he, by rwa [hm], by rwa [hm], ?_⟩
    rintro rfl
    have hexp : ((b.toNat : Int) + 127 - (127 : Nat)).toNat = b.toNat := by omega
    exact ⟨by rw [mantissaAt127_self, wordU_toNat_self], by rw [hexp, wordU_toNat_self]⟩

/-! ### The reciprocal step and RFT -/

/-- Settles O23: the reciprocal step subtracts one divisor before the division and adds one to the quotient. -/
theorem reciprocalStepIsFloorOfReciprocal : Obligations.ReciprocalStepIsFloorOfReciprocal := fun _ h0 h =>
  reciprocal_eq h0 h.le

theorem exec_rft (a : Word) (s : State) : exec (.rft a) s =
    answer s (do let t ← tickOperand a; ratioWords (rft s.config t)) := rfl

/-- `RFT` of a tick in range whose ratio is legal answers the words of the ratio (R167). -/
theorem exec_rft_inRange {a : Word} {s : State} (ht : InTickRange a.toInt) (h : (rft s.config a.toInt).legal = true) :
    exec (.rft a) s = .next (s.deliver
      (.ok (wordU (rft s.config a.toInt).mantissa) (wordU (rft s.config a.toInt).exponent.toNat))) := by
  rw [exec_rft, tickOperand_eq, if_neg (Int.not_lt.2 ht.1), if_neg (Int.not_lt.2 ht.2), ok_bind, ratioWords_eq,
    if_pos h, answer_ok]

/-- Settles O24: the tick test on the signed word, and the words of a legal ratio. -/
theorem rftAnswersTheRatioOfTheTick : Obligations.RftAnswersTheRatioOfTheTick := by
  intro a b s
  refine ⟨decode_make _ _ _, fun hlow => ?_, fun hhigh => ?_, fun ht h => ⟨_, _, exec_rft_inRange ht h, ?_⟩⟩
  · rw [exec_rft, tickOperand_eq, if_pos (by unfold minTick; omega), raise_bind, answer_raise, State.takeError_eq]
  · rw [exec_rft, tickOperand_eq, if_neg (by unfold minTick; omega), if_pos (by unfold maxTick; omega), raise_bind,
      answer_raise, State.takeError_eq]
  · obtain ⟨hm, he⟩ := Ratio.words_toNat (Ratio.wordPair_of_legal h)
    obtain ⟨⟨hge, hlt⟩, -, h255⟩ := (Ratio.legal_iff _).1 h
    exact ⟨hm, he, by omega, by omega, by omega⟩

/-! ### TFNR -/

theorem exec_tfnr (a b : Word) (s : State) : exec (.tfnr a b) s =
    answer s (do let t ← tickOfRatio s.config ⟨a.toNat, b.toNat⟩; return single (wordS t)) := rfl

/-- Where the tick of the pair is known, `TFNR` answers it. -/
theorem exec_tfnr_ok {a b : Word} {s : State} {t : Int} (h : tickOfRatio s.config ⟨a.toNat, b.toNat⟩ = .ok t) :
    exec (.tfnr a b) s = .next (s.deliver (.ok (wordS t) 0)) := by
  rw [exec_tfnr, h]
  rfl

/-- Where the tick of the pair fails, `TFNR` answers the error. -/
theorem exec_tfnr_raise {a b : Word} {s : State} {k : ErrorKind}
    (h : tickOfRatio s.config ⟨a.toNat, b.toNat⟩ = raise k) : exec (.tfnr a b) s = .next (s.deliver (.err k)) := by
  rw [exec_tfnr, h, raise_bind, answer_raise, State.takeError_eq]

section
variable {c : Config} {r : Ratio}

theorem tickOfRatio_tooLow (h : r.lt c.minRatio = true) : tickOfRatio c r = raise .tickTooLow := if_pos h

theorem tickOfRatio_tooHigh (hlow : r.lt c.minRatio = false) (h : c.maxRatio.lt r = true) :
    tickOfRatio c r = raise .tickTooHigh := by
  rw [tickOfRatio, hlow, if_neg (by decide), if_pos h]

theorem tickOfRatio_badOperand (h : InRatioRange c r) (hn : r.normalized = false) :
    tickOfRatio c r = raise .badOperand := by
  obtain ⟨hlow, hhigh⟩ := h
  rw [tickOfRatio, hlow, hhigh, hn]
  rfl

/-- A normalized pair in the ratio range has a floor tick, if the store covers the range (R172). -/
theorem tickOfRatio_isFloorTick (h : InRatioRange c r) (hn : r.normalized = true)
    (hc : (rft c minTick).le c.minRatio = true) : ∃ t : Int, tickOfRatio c r = .ok t ∧ IsFloorTick c r t := by
  obtain ⟨t, ht, hfloor⟩ := tfnr_isFloorTick (h.covered hc)
  exact ⟨t, (tickOfRatio_inRange h hn).trans ht, hfloor⟩

end

/-- Settles O29: the three tests in their order, and the search on a pair that passes them. -/
theorem tfnrIsTheFloorTickOrFailsInOrder : Obligations.TfnrIsTheFloorTickOrFailsInOrder := by
  rintro a b s _ rfl
  refine ⟨decode_make _ _ _, fun hlow => exec_tfnr_raise (tickOfRatio_tooLow hlow),
    fun hlow hhigh => exec_tfnr_raise (tickOfRatio_tooHigh hlow hhigh), fun hr ha => ?_, fun hr hge hlt hc => ?_⟩
  · refine exec_tfnr_raise (tickOfRatio_badOperand hr ?_)
    rw [Bool.eq_false_iff, ne_eq, Ratio.normalized_iff]
    rintro ⟨hge, hlt⟩
    dsimp only at hge hlt
    omega
  · obtain ⟨t, ht, hfloor⟩ := tickOfRatio_isFloorTick hr ((Ratio.normalized_iff _).2 ⟨hge, hlt⟩) hc
    exact ⟨t, exec_tfnr_ok ht, hfloor⟩

/-! ### TFR -/

theorem exec_tfr (a b : Word) (s : State) : exec (.tfr a b) s =
    answer s (do let r ← normOperands a b; let t ← tickOfRatio s.config r; return single (wordS t)) := rfl

/-- Where `NORM` gives a pair, `TFR` does what `TFNR` does on its words (R175). -/
theorem exec_tfr_of_norm {a b : Word} {r : Ratio} (h : normOperands a b = .ok r) (s : State) :
    exec (.tfr a b) s = exec (.tfnr (wordU r.mantissa) (wordU r.exponent.toNat)) s := by
  rw [exec_tfr, h, ok_bind, exec_tfnr_words (wordPair_of_normOperands h)]

/-- `NORM` has no error for a mantissa that is not normalized. -/
theorem normOperands_ne_badOperand (a b : Word) : normOperands a b ≠ raise .badOperand := by
  unfold normOperands
  split
  · nofun
  · split
    · nofun
    · split <;> nofun

/-- The search fails only where the store breaks R10. -/
theorem tfnr_ne_raise (c : Config) (r : Ratio) (k : ErrorKind) : tfnr c r ≠ raise k := by
  unfold tfnr
  cases searchTick c r 21 0 <;> nofun

/-- The tick of a normalized pair fails only on the sides of the ratio range. -/
theorem tickOfRatio_ne_badOperand {c : Config} {r : Ratio} (h : r.normalized = true) :
    tickOfRatio c r ≠ raise .badOperand := by
  by_cases hr : InRatioRange c r
  · rw [tickOfRatio_inRange hr h]
    exact tfnr_ne_raise c r _
  · obtain e | e := tickOfRatio_outOfRange hr <;> rw [e] <;> nofun

/-- `TFR` never answers `BadOperand`: neither the normalizer raises it nor the tick of what it gives (R175). -/
theorem exec_tfr_ne_badOperand (a b : Word) (s : State) :
    exec (.tfr a b) s ≠ .next (s.deliver (.err .badOperand)) := by
  intro h
  have he := answer_injective (e' := raise .badOperand) ((exec_tfr a b s).symm.trans h)
  obtain hn | ⟨r, hr, he⟩ := bind_eq_error.1 he
  · exact normOperands_ne_badOperand a b hn
  · obtain ht | ⟨_, -, hpure⟩ := bind_eq_error.1 he
    · exact tickOfRatio_ne_badOperand (Ratio.normalized_of_wordPair (wordPair_of_normOperands hr)) ht
    · nomatch hpure

/-- Settles O34: by what the normalizer gives. -/
theorem tfrIsNormThenTfnr : Obligations.TfrIsNormThenTfnr := by
  intro a b s
  refine ⟨decode_make _ _ _, ?_, exec_tfr_ne_badOperand a b s⟩
  rcases hn : normOperands a b with (k | _) | r
  · exact .inl ⟨k, by rw [exec_norm, hn]; rfl, by rw [exec_tfr, hn]; rfl⟩
  · exact absurd hn (normOperands_inDomain a b)
  · exact .inr ⟨_, _, by rw [exec_norm, hn]; rfl, exec_tfr_of_norm hn s⟩

/-- Settles O35: the normalizer gives the pair, which has a floor tick. -/
theorem tfrAnswersTheFloorTick : Obligations.TfrAnswersTheFloorTick := by
  rintro a b s p _ rfl hp h0 h1 hr hc
  have hok := normOperands_ok hp h0 h1
  have hnormalized := Ratio.normalized_of_wordPair (wordPair_of_normOperands hok)
  obtain ⟨t, ht, hfloor⟩ := tickOfRatio_isFloorTick hr hnormalized hc
  refine ⟨t, ?_, hfloor⟩
  rw [exec_tfr, hok, ok_bind, ht]
  rfl

/-! ### RFV and TFV -/

section
variable {a b : Word} {s : State}

/-- Amounts above the ceiling are answered `VolumeTooLarge` by both commands (R176, R177). -/
theorem exec_volumeTooLarge (h : s.config.maxSafeVolume < a.toNat ∨ s.config.maxSafeVolume < b.toNat) :
    exec (.rfv a b) s = .next (s.deliver (.err .volumeTooLarge)) ∧
      exec (.tfv a b) s = .next (s.deliver (.err .volumeTooLarge)) :=
  exec_volumes_tooLarge (by omega)

/-- Where the pair of `RFV` is one of words, these are what `RFV` answers. -/
theorem exec_rfv_words {r : Ratio} (hr : r.wordPair = true)
    (h : exec (.rfv a b) s = answer s (.ok (wordU r.mantissa, wordU r.exponent.toNat))) :
    ∃ m e : Word, exec (.rfv a b) s = .next (s.deliver (.ok m e)) ∧ m.toNat = r.mantissa ∧
      (e.toNat : Int) = r.exponent :=
  ⟨_, _, h, Ratio.words_toNat hr⟩

variable (hv : a.toNat ≤ s.config.maxSafeVolume ∧ b.toNat ≤ s.config.maxSafeVolume)
include hv

/-- A zero outbound amount is answered the greatest ratio (R176). -/
theorem exec_rfv_outbound_zero (hw : s.config.wellFormed = true) (hb : b = 0) :
    ∃ m e : Word, exec (.rfv a b) s = .next (s.deliver (.ok m e)) ∧ m.toNat = s.config.maxRatio.mantissa ∧
      (e.toNat : Int) = s.config.maxRatio.exponent := by
  obtain ⟨-, hmax, -⟩ := Config.wellFormed_sentinels_volume hw
  refine exec_rfv_words hmax ?_
  rw [exec_rfv_inCeiling hv, if_pos (by rw [hb]; rfl), sentinelWords_eq, if_pos hmax]

/-- A zero inbound amount, with an outbound one that is not zero, is answered the least ratio (R176). -/
theorem exec_rfv_inbound_zero (hw : s.config.wellFormed = true) (hb : b ≠ 0) (ha : a = 0) :
    ∃ m e : Word, exec (.rfv a b) s = .next (s.deliver (.ok m e)) ∧ m.toNat = s.config.minRatio.mantissa ∧
      (e.toNat : Int) = s.config.minRatio.exponent := by
  obtain ⟨hmin, -, -⟩ := Config.wellFormed_sentinels_volume hw
  refine exec_rfv_words hmin ?_
  rw [exec_rfv_inCeiling hv, if_neg (Word.toNat_ne_zero hb), if_pos (by rw [ha]; rfl), sentinelWords_eq, if_pos hmin]

/-- Two amounts that are not zero are answered the normalized quotient (R176). -/
theorem exec_rfv_quotient (hw : s.config.wellFormed = true) (hb : b ≠ 0) (ha : a ≠ 0) :
    ∃ m e : Word, exec (.rfv a b) s = .next (s.deliver (.ok m e)) ∧
      m.toNat = (volumeRatio a.toNat b.toNat).mantissa ∧ (e.toNat : Int) = (volumeRatio a.toNat b.toNat).exponent := by
  obtain ⟨-, -, hvol⟩ := Config.wellFormed_sentinels_volume hw
  have ha0 := Word.toNat_ne_zero ha
  have hb0 := Word.toNat_ne_zero hb
  have hlegal := volumeRatio_legal ha0 hb0 (hv.1.trans_lt hvol) (hv.2.trans_lt hvol)
  refine exec_rfv_words (Ratio.wordPair_of_legal hlegal) ?_
  rw [exec_rfv_inCeiling hv, if_neg hb0, if_neg ha0, ratioWords_eq, if_pos hlegal]

/-- Two amounts that are not zero are answered the tick of their quotient (R177). -/
theorem exec_tfv_quotient {t : Int} (hb : b ≠ 0) (ha : a ≠ 0) (h : tickOfVolumes s.config a b = .ok t) :
    exec (.tfv a b) s = .next (s.deliver (.ok (wordS t) 0)) := by
  rw [exec_tfv_inCeiling hv, if_neg (Word.toNat_ne_zero hb), if_neg (Word.toNat_ne_zero ha), h]
  rfl

end

/-- The ratio of two amounts, by the leading bit of the quotient. -/
theorem volumeRatio_eq {a b p : Nat} (hp : LeadingBit (a * 2 ^ 128 / b) p) :
    volumeRatio a b = ⟨mantissaAt127 (a * 2 ^ 128 / b) p, 255 - p⟩ :=
  normalizeRatio_eq hp 128

/-- The quotient of two amounts below `2^128`, neither zero, has a leading bit. -/
theorem exists_leadingBit_quotient {a b : Nat} (ha : a ≠ 0) (hb : b ≠ 0) (hb' : b < 2 ^ 128) :
    ∃ p, LeadingBit (a * 2 ^ 128 / b) p :=
  ⟨_, leadingBit_fls (Nat.div_ne_zero_iff.2 ⟨hb, by omega⟩)⟩

/-- Settles O36: the ceiling test, the two zero amounts with their sentinels, and the quotient. -/
theorem rfvAnswersTheNormalizedQuotient : Obligations.RfvAnswersTheNormalizedQuotient := by
  intro a b s
  refine ⟨decode_make _ _ _, fun h => (exec_volumeTooLarge h).1, fun hva hvb hw => ?_⟩
  have hv := And.intro hva hvb
  by_cases hb : b = 0
  · obtain ⟨m, e, hexec, hmax⟩ := exec_rfv_outbound_zero hv hw hb
    exact ⟨m, e, hexec, fun _ => hmax, fun h => absurd hb h, fun h => absurd hb h⟩
  by_cases ha : a = 0
  · obtain ⟨m, e, hexec, hmin⟩ := exec_rfv_inbound_zero hv hw hb ha
    exact ⟨m, e, hexec, fun h => absurd h hb, fun _ _ => hmin, fun _ h => absurd ha h⟩
  · obtain ⟨m, e, hexec, hm, he⟩ := exec_rfv_quotient hv hw hb ha
    obtain ⟨-, -, hvol⟩ := Config.wellFormed_sentinels_volume hw
    obtain ⟨p, hp⟩ := exists_leadingBit_quotient (Word.toNat_ne_zero ha) (Word.toNat_ne_zero hb) (hvb.trans_lt hvol)
    rw [volumeRatio_eq hp] at hm he
    dsimp only at hm he
    exact ⟨m, e, hexec, fun h => absurd h hb, fun _ h => absurd h ha, fun _ _ => ⟨p, hp, hm, by omega⟩⟩

/-- Settles O37: the ceiling test, the two zero amounts, and the tick of the quotient inside and outside the range. -/
theorem tfvAnswersTheTickOfTheQuotient : Obligations.TfvAnswersTheTickOfTheQuotient := by
  intro a b s
  refine ⟨decode_make _ _ _, fun h => (exec_volumeTooLarge h).2, fun hva hvb => ⟨fun hb => ?_, fun hb ha => ?_, ?_⟩⟩
  · rw [exec_tfv_inCeiling ⟨hva, hvb⟩, if_pos (by rw [hb]; rfl)]
    rfl
  · rw [exec_tfv_inCeiling ⟨hva, hvb⟩, if_neg (Word.toNat_ne_zero hb), if_pos (by rw [ha]; rfl)]
    rfl
  · rintro p r hb hp hr
    rw [← volumeRatio_eq hp] at hr
    subst hr
    have ha : a ≠ 0 := by
      rintro rfl
      have hzero : (0 : Word).toNat * 2 ^ 128 / b.toNat = 0 := by simp
      exact absurd hp.1 (by rw [hzero]; simp)
    refine ⟨fun hin hc => ?_, fun hout => ?_⟩
    · obtain ⟨t, ht, hfloor⟩ := tfnr_isFloorTick hc
      exact ⟨t, exec_tfv_quotient ⟨hva, hvb⟩ hb ha ((tickOfVolumes_inRange hin).trans ht), hfloor⟩
    · obtain ⟨t, ht, hrange⟩ := tickOfVolumes_outOfRange hout
      exact ⟨t, exec_tfv_quotient ⟨hva, hvb⟩ hb ha ht, hrange⟩

end Sys2Proof.Machine
end

section
/-! PROOFS. The ratios of the default store (spec/43_ratio_tick.md): each is within one part in `2^100` of a power of
1.0001 (O26), so they increase (O25), so the floor tick of a pair is the greatest tick at or below it (O30), and the tick
of a tick's ratio is the tick (O31). The accuracy is shown for every constant store whose table is accurate. -/

namespace Sys2Proof

/-- What a ratio pair stands for (R25). -/
noncomputable def Ratio.value (r : Ratio) : ℝ := r.mantissa * 2 ^ (-r.exponent)

/-- The ratio that one tick is worth (R164). -/
noncomputable def tickBase : ℝ := 10001 / 10000

end Sys2Proof

namespace Sys2Proof.Machine

theorem tickBase_pos : 0 < tickBase := by unfold tickBase; norm_num

theorem one_lt_tickBase : 1 < tickBase := by unfold tickBase; norm_num

/-! ### The order of ratio pairs is the order of their values -/

theorem Ratio.value_lt_of_lt {x y : Ratio} (hx : x.normalized = true) (hy : y.normalized = true)
    (h : x.lt y = true) : x.value < y.value := by
  obtain ⟨-, hx⟩ := (Ratio.normalized_iff x).1 hx
  obtain ⟨hy, -⟩ := (Ratio.normalized_iff y).1 hy
  unfold Ratio.value
  obtain hexp | ⟨hexp, hman⟩ := (Ratio.lt_iff x y).1 h
  · have hxm : (x.mantissa : ℝ) < 2 ^ 128 := by exact_mod_cast hx
    have hym : (2 ^ 127 : ℝ) ≤ y.mantissa := by exact_mod_cast hy
    calc (x.mantissa : ℝ) * 2 ^ (-x.exponent) < 2 ^ 128 * 2 ^ (-x.exponent) := by gcongr
      _ = 2 ^ 127 * 2 ^ (1 + -x.exponent) := by rw [zpow_add₀ two_ne_zero]; ring
      _ ≤ 2 ^ 127 * 2 ^ (-y.exponent) :=
          mul_le_mul_of_nonneg_left (zpow_le_zpow_right₀ one_le_two (by omega)) (by norm_num)
      _ ≤ y.mantissa * 2 ^ (-y.exponent) := by gcongr
  · rw [hexp]
    gcongr

theorem Ratio.value_le_of_le {x y : Ratio} (hx : x.normalized = true) (hy : y.normalized = true)
    (h : x.le y = true) : x.value ≤ y.value := by
  rcases hlt : x.lt y with _ | _
  · have hle := (Ratio.lt_eq_false_iff x y).1 hlt
    rw [Ratio.le_iff] at h hle
    have heq : x.exponent = y.exponent ∧ x.mantissa = y.mantissa := by omega
    rw [Ratio.value, Ratio.value, heq.1, heq.2]
  · exact (Ratio.value_lt_of_lt hx hy hlt).le

theorem Ratio.lt_of_value_lt {x y : Ratio} (hx : x.normalized = true) (hy : y.normalized = true)
    (h : x.value < y.value) : x.lt y = true := by
  by_contra hlt
  have hle := (Ratio.lt_eq_false_iff x y).1 (Bool.not_eq_true _ ▸ hlt)
  exact (Ratio.value_le_of_le hy hx hle).not_gt h

/-! ### What the normalizer does to the value -/

theorem normalizeRatio_value {m p : Nat} (hp : LeadingBit m p) (e : Int) :
    (normalizeRatio m e).value = mantissaAt127 m p * 2 ^ ((p : Int) - 127) * 2 ^ (-e) := by
  rw [normalizeRatio_eq hp, Ratio.value, mul_assoc, ← zpow_add₀ two_ne_zero]
  dsimp only
  congr 2
  omega

/-- A mantissa that is moved up loses nothing. -/
theorem mantissaAt127_up {m p : Nat} (h : p ≤ 127) : (mantissaAt127 m p : ℝ) * 2 ^ ((p : Int) - 127) = m := by
  have hexp : (p : Int) - 127 = -((127 - p : Nat) : Int) := by omega
  rw [mantissaAt127, if_pos h, hexp, zpow_neg, zpow_natCast]
  push_cast
  exact mul_inv_cancel_right₀ (pow_ne_zero _ two_ne_zero) _

/-- A mantissa that is moved down loses its low bits. -/
theorem mantissaAt127_down {m p : Nat} (h : 127 < p) :
    mantissaAt127 m p = m / 2 ^ (p - 127) ∧ (2 : ℝ) ^ ((p : Int) - 127) = ((2 ^ (p - 127) : Nat) : ℝ) := by
  have hexp : (p : Int) - 127 = ((p - 127 : Nat) : Int) := by omega
  rw [mantissaAt127, if_neg (by omega), hexp, zpow_natCast]
  exact ⟨rfl, by push_cast; rfl⟩

theorem mantissaAt127_mul_le (m p : Nat) : (mantissaAt127 m p : ℝ) * 2 ^ ((p : Int) - 127) ≤ m := by
  rcases Nat.lt_or_ge 127 p with h | h
  · obtain ⟨hman, hpow⟩ := mantissaAt127_down (m := m) h
    rw [hman, hpow]
    exact_mod_cast Nat.div_mul_le_self _ _
  · exact (mantissaAt127_up h).le

/-- What a floor quotient of at least `2^127` loses is at most one part in `2^127`. -/
theorem div_le_mul_floor {x d : Nat} (hd : 0 < d) (h : 2 ^ 127 ≤ x / d) :
    (x : ℝ) / d ≤ (1 + 1 / 2 ^ 127) * (x / d : Nat) := by
  have hd' : (0 : ℝ) < d := Nat.cast_pos.2 hd
  have hlt : (x : ℝ) ≤ ((x / d : Nat) + 1) * d := by
    exact_mod_cast (Nat.lt_div_mul_add hd).le.trans_eq (Nat.succ_mul _ _).symm
  have hge : (2 ^ 127 : ℝ) ≤ (x / d : Nat) := by exact_mod_cast h
  exact ((div_le_iff₀ hd').2 hlt).trans (by linarith)

theorem le_mantissaAt127_mul {m p : Nat} (hp : LeadingBit m p) :
    (m : ℝ) ≤ (1 + 1 / 2 ^ 127) * (mantissaAt127 m p * 2 ^ ((p : Int) - 127)) := by
  rcases Nat.lt_or_ge 127 p with h | h
  · obtain ⟨hman, hpow⟩ := mantissaAt127_down (m := m) h
    have hpos : 0 < 2 ^ (p - 127) := Nat.two_pow_pos _
    have hfloor := div_le_mul_floor hpos (hman ▸ (normalized_mantissaAt127 hp).1)
    rw [hman, hpow, ← mul_assoc]
    exact (div_le_iff₀ (Nat.cast_pos.2 hpos)).1 hfloor
  · rw [mantissaAt127_up h]
    exact le_mul_of_one_le_left (Nat.cast_nonneg m) (by norm_num)

/-- A mantissa of at most `2^128` keeps its value: only `2^128` itself is moved down, and it has no low bits. -/
theorem normalizeRatio_value_of_le {m : Nat} (h0 : m ≠ 0) (h : m ≤ 2 ^ 128) (e : Int) :
    (normalizeRatio m e).value = m * 2 ^ (-e) := by
  obtain ⟨p, hp⟩ : ∃ p, LeadingBit m p := ⟨_, leadingBit_fls h0⟩
  rw [normalizeRatio_value hp]
  congr 1
  rcases Nat.lt_or_ge 127 p with hlt | hge
  · have hpow : 2 ^ 128 ≤ 2 ^ p := Nat.pow_le_pow_right Nat.two_pos hlt
    obtain rfl : m = 2 ^ 128 := le_antisymm h (hpow.trans hp.1)
    obtain rfl : p = 128 := (Nat.pow_right_injective le_rfl (le_antisymm hp.1 hpow))
    norm_num [mantissaAt127]
  · exact mantissaAt127_up hge

theorem normalizeRatio_value_le {m : Nat} (h0 : m ≠ 0) (e : Int) : (normalizeRatio m e).value ≤ m * 2 ^ (-e) := by
  rw [normalizeRatio_value (leadingBit_fls h0)]
  exact mul_le_mul_of_nonneg_right (mantissaAt127_mul_le _ _) (zpow_nonneg zero_le_two _)

theorem le_normalizeRatio_value {m : Nat} (h0 : m ≠ 0) (e : Int) :
    m * 2 ^ (-e) ≤ (1 + 1 / 2 ^ 127) * (normalizeRatio m e).value := by
  have hp := leadingBit_fls h0
  rw [normalizeRatio_value hp, ← mul_assoc]
  exact mul_le_mul_of_nonneg_right (le_mantissaAt127_mul hp) (zpow_nonneg zero_le_two _)

theorem normalizeRatio_normalized {m : Nat} (h0 : m ≠ 0) (e : Int) : (normalizeRatio m e).normalized = true := by
  have hp := leadingBit_fls h0
  rw [normalizeRatio_eq hp, Ratio.normalized_iff]
  exact normalized_mantissaAt127 hp

/-! ### How near the power is -/

/-- The entries are floors: accurate, and not above what they approximate (R28, R164). -/
structure PowTableFloor (c : Config) : Prop extends PowTableAccurate c where
  below : ∀ i : Fin 20, (c.pow.get i).value * 10001 ^ 2 ^ (i : Nat) ≤
    2 ^ (128 + (c.pow.get i).shift) * 10000 ^ 2 ^ (i : Nat)

theorem default_powTableFloor : PowTableFloor Config.default where
  toPowTableAccurate := default_powTableAccurate
  below i := (powApproximates_of_floor default_pow_eq_floor i).1

/-- The running mantissa does not exceed `1.0001^(-m) * 2^(128 + shift)` (R164). -/
def PowerBelow (m : Nat) (acc : Nat × Nat) : Prop := acc.1 * 10001 ^ m ≤ 2 ^ (128 + acc.2) * 10000 ^ m

/-- A multiplication by an entry that is not above its power, low bits dropped, keeps below the product. -/
theorem PowerBelow.multiply {m w v s : Nat} {acc : Nat × Nat} (h : PowerBelow m acc)
    (hv : v * 10001 ^ w ≤ 2 ^ (128 + s) * 10000 ^ w) : PowerBelow (m + w) (acc.1 * v / 2 ^ 128, acc.2 + s) := by
  unfold PowerBelow at *
  refine Nat.le_of_mul_le_mul_left ?_ (Nat.two_pow_pos 128)
  calc 2 ^ 128 * (acc.1 * v / 2 ^ 128 * 10001 ^ (m + w))
      = acc.1 * v / 2 ^ 128 * 2 ^ 128 * 10001 ^ (m + w) := by ring
    _ ≤ acc.1 * v * 10001 ^ (m + w) := Nat.mul_le_mul_right _ (Nat.div_mul_le_self _ _)
    _ = acc.1 * 10001 ^ m * (v * 10001 ^ w) := by ring
    _ ≤ 2 ^ (128 + acc.2) * 10000 ^ m * (2 ^ (128 + s) * 10000 ^ w) := Nat.mul_le_mul h hv
    _ = _ := by ring

/-- The conditional multiplication for bit `i` takes that bit of the magnitude into account. -/
theorem PowerBelow.step {c : Config} (hc : PowTableFloor c) {n : Nat} (i : Fin 20) {acc : Nat × Nat}
    (h : PowerBelow (n % 2 ^ (i : Nat)) acc) : PowerBelow (n % 2 ^ (i + 1 : Nat)) (powerStep c n acc i) := by
  unfold powerStep
  rw [Nat.mod_pow_succ, Nat.testBit_eq_decide_div_mod_eq]
  rcases Nat.mod_two_eq_zero_or_one (n / 2 ^ (i : Nat)) with hbit | hbit
  · rw [hbit, if_neg (by decide), Nat.mul_zero, Nat.add_zero]
    exact h
  · rw [hbit, if_pos (by decide), Nat.mul_one]
    exact h.multiply (hc.below i)

theorem power_below {c : Config} (hc : PowTableFloor c) {n : Nat} (hn : n < 2 ^ 20) : PowerBelow n (power c n) := by
  have h : PowerBelow (n % 2 ^ 20) (power c n) :=
    power_invariant (P := fun i acc => PowerBelow (n % 2 ^ i) acc)
      (by rw [pow_zero, Nat.mod_one]; exact le_rfl) fun i _ h => h.step hc i
  rwa [Nat.mod_eq_of_lt hn] at h

/-- What a running mantissa and a shift count stand for (R166). -/
noncomputable def powerValue (acc : Nat × Nat) : ℝ := acc.1 / 2 ^ (128 + acc.2)

/-- The 40 factors cost less than one part in `2^101`. -/
theorem forty_factors : (1 - 1 / 2 ^ 101) * (2 ^ 107) ^ 40 ≤ ((2 : ℝ) ^ 107 - 1) ^ 40 := by norm_num

section
variable {c : Config} (hc : PowTableFloor c) {n : Nat} (hn : n < 2 ^ 20)
include hc hn

theorem power_pos : 0 < (power c n).1 := (Nat.two_pow_pos _).trans_le (power_accurate hc.toPowTableAccurate hn).ge

theorem powerValue_pos : 0 < powerValue (power c n) :=
  div_pos (Nat.cast_pos.2 (power_pos hc hn)) (pow_pos two_pos _)

/-- The power falls short of `1.0001^(-n)` by at most one part in `2^101`. -/
theorem powerValue_near : 1 - 1 / 2 ^ 101 ≤ powerValue (power c n) * tickBase ^ n ∧
    powerValue (power c n) * tickBase ^ n ≤ 1 := by
  have hnear := (power_accurate hc.toPowTableAccurate hn).near
  have hbelow : PowerBelow n (power c n) := power_below hc hn
  unfold PowerBelow at hbelow
  unfold powerValue tickBase
  generalize power c n = acc at *
  have hden : (0 : ℝ) < 2 ^ (128 + acc.2) * 10000 ^ n := by positivity
  rw [div_pow, div_mul_div_comm, div_le_one hden, le_div_iff₀ hden]
  refine ⟨?_, by exact_mod_cast hbelow⟩
  have hnear' : (2 ^ (128 + acc.2) * 10000 ^ n : ℝ) * (2 ^ 107 - 1) ^ 40 ≤
      acc.1 * 10001 ^ n * (2 ^ 107) ^ 40 := by
    have hcast : ((2 ^ 107 - 1 : Nat) : ℝ) = 2 ^ 107 - 1 := by norm_num
    rw [← hcast]
    exact_mod_cast hnear
  refine le_of_mul_le_mul_right ?_ (by positivity : (0 : ℝ) < (2 ^ 107) ^ 40)
  calc (1 - 1 / 2 ^ 101) * (2 ^ (128 + acc.2) * 10000 ^ n : ℝ) * (2 ^ 107) ^ 40
      = 2 ^ (128 + acc.2) * 10000 ^ n * ((1 - 1 / 2 ^ 101) * (2 ^ 107) ^ 40) := by ring
    _ ≤ 2 ^ (128 + acc.2) * 10000 ^ n * (2 ^ 107 - 1) ^ 40 := by gcongr; exact forty_factors
    _ ≤ _ := hnear'

/-! ### How near the ratio of a tick is -/

/-- The ratio of a tick that is not positive is the power, without any loss (R166). -/
theorem rft_neg_value : (rft c (-(n : Int))).value = powerValue (power c n) := by
  have hpos := power_pos hc hn
  have hle := (power_accurate hc.toPowTableAccurate hn).le
  rw [rft, if_neg (by omega), Int.natAbs_neg, Int.natAbs_natCast, normalizeRatio_value_of_le hpos.ne' hle,
    powerValue, div_eq_mul_inv, zpow_neg, ← Nat.cast_ofNat (n := 128), ← Nat.cast_add, zpow_natCast]

/-- The ratio of a positive tick is the normalized floor quotient of `2^256` (R165). -/
theorem rft_pos_eq (h0 : 0 < n) :
    rft c n = normalizeRatio (2 ^ 256 / (power c n).1) (128 - (power c n).2) := by
  have hle := (power_accurate hc.toPowTableAccurate hn).le
  rw [rft, if_pos (by omega), Int.natAbs_natCast, reciprocal_eq (power_pos hc hn) (hle.trans (by decide))]

/-- The quotient of the reciprocal step has at least 129 bits. -/
theorem two_pow_le_quotient : 2 ^ 128 ≤ 2 ^ 256 / (power c n).1 := by
  rw [Nat.le_div_iff_mul_le (power_pos hc hn)]
  exact Nat.mul_le_mul_left (2 ^ 128) (power_accurate hc.toPowTableAccurate hn).le

omit hc hn in
/-- The value of the power inverts to the quotient that the reciprocal step takes the floor of. -/
theorem powerValue_inv : (powerValue (power c n))⁻¹ =
    ((2 ^ 256 : Nat) : ℝ) / (power c n).1 * 2 ^ (-(128 - (power c n).2 : Int)) := by
  rw [powerValue, inv_div, neg_sub, zpow_sub₀ two_ne_zero, zpow_natCast, pow_add]
  push_cast
  ring

/-- The reciprocal step and the normalizer each lose at most one part in `2^127`. -/
theorem rft_pos_value (h0 : 0 < n) : (rft c n).value ≤ (powerValue (power c n))⁻¹ ∧
    (powerValue (power c n))⁻¹ ≤ (1 + 1 / 2 ^ 127) * ((1 + 1 / 2 ^ 127) * (rft c n).value) := by
  have hquot := two_pow_le_quotient hc hn
  have hfloor := div_le_mul_floor (power_pos hc hn) ((by decide : 2 ^ 127 ≤ 2 ^ 128).trans hquot)
  have hne : 2 ^ 256 / (power c n).1 ≠ 0 := by omega
  rw [rft_pos_eq hc hn h0, powerValue_inv]
  have hunit : (0 : ℝ) ≤ 2 ^ (-(128 - (power c n).2 : Int)) := zpow_nonneg zero_le_two _
  constructor
  · exact (normalizeRatio_value_le hne _).trans (mul_le_mul_of_nonneg_right Nat.cast_div_le hunit)
  · refine (mul_le_mul_of_nonneg_right hfloor hunit).trans ?_
    rw [mul_assoc]
    exact mul_le_mul_of_nonneg_left (le_normalizeRatio_value hne _) (by norm_num)

/-- The ratio of a tick that is not positive falls short of the power of 1.0001 by at most one part in `2^101`. -/
theorem rft_neg_near : 1 - 1 / 2 ^ 101 ≤ (rft c (-(n : Int))).value * tickBase ^ n ∧
    (rft c (-(n : Int))).value * tickBase ^ n ≤ 1 := by
  rw [rft_neg_value hc hn]
  exact powerValue_near hc hn

/-- The ratio of a positive tick is within one part in `2^100` of the power of 1.0001. -/
theorem rft_pos_near (h0 : 0 < n) : (1 - 1 / 2 ^ 100) * tickBase ^ n ≤ (rft c n).value ∧
    (rft c n).value ≤ (1 + 1 / 2 ^ 100) * tickBase ^ n := by
  obtain ⟨hlow, hhigh⟩ := powerValue_near hc hn
  obtain ⟨hle, hge⟩ := rft_pos_value hc hn h0
  have hpos := powerValue_pos hc hn
  have hbase : 0 < tickBase ^ n := pow_pos tickBase_pos n
  generalize powerValue (power c n) = P at *
  generalize tickBase ^ n = B at *
  have hBP : B ≤ P⁻¹ := by rwa [← one_div, le_div_iff₀ hpos, mul_comm]
  have hPB : P⁻¹ ≤ (1 + 1 / 2 ^ 100) * B := by
    rw [← one_div, div_le_iff₀ hpos]
    linarith
  exact ⟨by linarith, hle.trans hPB⟩

end

/-- The ratio of any tick is within one part in `2^100` of the power of 1.0001. -/
theorem rft_near {c : Config} (hc : PowTableFloor c) {t : Int} (ht : t.natAbs < 2 ^ 20) :
    (1 - 1 / 2 ^ 100) * tickBase ^ t ≤ (rft c t).value ∧ (rft c t).value ≤ (1 + 1 / 2 ^ 100) * tickBase ^ t := by
  rcases lt_or_ge 0 t with h | h
  · obtain ⟨n, rfl⟩ := Int.eq_ofNat_of_zero_le h.le
    rw [zpow_natCast]
    exact rft_pos_near hc ht (by omega)
  · obtain ⟨n, rfl⟩ := Int.exists_eq_neg_ofNat h
    obtain ⟨hlow, hhigh⟩ := rft_neg_near hc (n := n) (by omega)
    have hbase : 0 < tickBase ^ n := pow_pos tickBase_pos n
    rw [zpow_neg, zpow_natCast, ← div_eq_mul_inv, ← div_eq_mul_inv, div_le_iff₀ hbase, le_div_iff₀ hbase]
    exact ⟨by linarith, by linarith⟩

/-! ### The approximation over the integers -/

theorem Ratio.mantissa_eq {r : Ratio} (h : 0 ≤ r.exponent) :
    (r.mantissa : ℝ) = r.value * 2 ^ r.exponent.toNat := by
  have hcancel : (2 : ℝ) ^ (-r.exponent) * 2 ^ r.exponent.toNat = 1 := by
    rw [← zpow_natCast, Int.toNat_of_nonneg h, ← zpow_add₀ two_ne_zero, neg_add_cancel, zpow_zero]
  rw [Ratio.value, mul_assoc, hcancel, mul_one]

theorem tickBase_pow_mul (n : Nat) : tickBase ^ n * 10000 ^ n = 10001 ^ n := by
  rw [← mul_pow, tickBase]
  norm_num

theorem default_rft_legal {t : Int} (ht : InTickRange t) : (rft Config.default t).legal = true :=
  rft_legal_of_accurate default_powTableAccurate ht

theorem InTickRange.natAbs_lt {t : Int} (ht : InTickRange t) : t.natAbs < 2 ^ 20 := by
  unfold InTickRange minTick maxTick at ht
  omega

/-- A bound on the value of a ratio times a power of 1.0001, over the integers. -/
theorem mantissa_mul_bounds {r : Ratio} (h : 0 ≤ r.exponent) {n : Nat}
    (hlow : 1 - 1 / 2 ^ 101 ≤ r.value * tickBase ^ n) (hhigh : r.value * tickBase ^ n ≤ 1) :
    r.mantissa * 10001 ^ n ≤ 10000 ^ n * 2 ^ r.exponent.toNat ∧
      (2 ^ 100 - 1) * (10000 ^ n * 2 ^ r.exponent.toNat) ≤ 2 ^ 100 * (r.mantissa * 10001 ^ n) := by
  have hm := Ratio.mantissa_eq h
  have hscale : (0 : ℝ) < 10000 ^ n * 2 ^ r.exponent.toNat := by positivity
  have hprod : (r.mantissa : ℝ) * 10001 ^ n = r.value * tickBase ^ n * (10000 ^ n * 2 ^ r.exponent.toNat) := by
    rw [hm, ← tickBase_pow_mul]
    ring
  have hpred : ((2 ^ 100 - 1 : Nat) : ℝ) = 2 ^ 100 - 1 := by norm_num
  rw [← Nat.cast_le (α := ℝ), ← Nat.cast_le (α := ℝ)]
  simp only [Nat.cast_mul, Nat.cast_pow, Nat.cast_ofNat, hpred, hprod]
  have hlow' := mul_le_mul_of_nonneg_right hlow hscale.le
  have hhigh' := mul_le_mul_of_nonneg_right hhigh hscale.le
  exact ⟨by linarith, by linarith⟩

/-- Bounds on the value of a ratio by a power of 1.0001, over the integers. -/
theorem mantissa_bounds {r : Ratio} (h : 0 ≤ r.exponent) {n : Nat}
    (hlow : (1 - 1 / 2 ^ 100) * tickBase ^ n ≤ r.value) (hhigh : r.value ≤ (1 + 1 / 2 ^ 100) * tickBase ^ n) :
    (2 ^ 100 - 1) * (10001 ^ n * 2 ^ r.exponent.toNat) ≤ 2 ^ 100 * (r.mantissa * 10000 ^ n) ∧
      2 ^ 100 * (r.mantissa * 10000 ^ n) ≤ (2 ^ 100 + 1) * (10001 ^ n * 2 ^ r.exponent.toNat) := by
  have hm := Ratio.mantissa_eq h
  have hscale : (0 : ℝ) < 10000 ^ n * 2 ^ r.exponent.toNat := by positivity
  have hleft : (10001 : ℝ) ^ n * 2 ^ r.exponent.toNat = tickBase ^ n * (10000 ^ n * 2 ^ r.exponent.toNat) := by
    rw [← tickBase_pow_mul]
    ring
  have hright : (r.mantissa : ℝ) * 10000 ^ n = r.value * (10000 ^ n * 2 ^ r.exponent.toNat) := by
    rw [hm]
    ring
  have hpred : ((2 ^ 100 - 1 : Nat) : ℝ) = 2 ^ 100 - 1 := by norm_num
  rw [← Nat.cast_le (α := ℝ), ← Nat.cast_le (α := ℝ)]
  simp only [Nat.cast_mul, Nat.cast_pow, Nat.cast_add, Nat.cast_one, Nat.cast_ofNat, hpred, hleft, hright]
  have hlow' := mul_le_mul_of_nonneg_right hlow hscale.le
  have hhigh' := mul_le_mul_of_nonneg_right hhigh hscale.le
  exact ⟨by linarith, by linarith⟩

/-- Tick 0 has the ratio 1 (R169 c). -/
theorem default_rft_zero : rft Config.default 0 = ⟨2 ^ 127, 127⟩ := by decide +kernel

/-- Settles O26: the accuracy of the power and of the reciprocal step, cleared of denominators; tick 0 counts as not
positive in the pipeline, and as both here. -/
theorem defaultRatiosApproximatePowers : Obligations.DefaultRatiosApproximatePowers := by
  intro n hn
  have hrange : InTickRange (n : Int) := ⟨by unfold minTick; omega, by unfold maxTick; omega⟩
  have hexp {t : Int} (ht : InTickRange t) : 0 ≤ (rft Config.default t).exponent :=
    ((Ratio.legal_iff _).1 (default_rft_legal ht)).2.1
  obtain ⟨hneg, hneg'⟩ := rft_neg_near default_powTableFloor (n := n) (by omega)
  obtain ⟨hpos, hpos'⟩ := rft_near default_powTableFloor hrange.natAbs_lt
  rw [zpow_natCast] at hpos hpos'
  obtain ⟨h1, h2⟩ := mantissa_mul_bounds (hexp hrange.neg) hneg hneg'
  obtain ⟨h3, h4⟩ := mantissa_bounds (hexp hrange) hpos hpos'
  exact ⟨h1, h2, h3, h4⟩

/-! ### Ratios increase -/

theorem rft_normalized {c : Config} (hc : PowTableFloor c) {t : Int} (ht : t.natAbs < 2 ^ 20) :
    (rft c t).normalized = true := by
  unfold rft
  split
  · exact normalizeRatio_normalized (Nat.succ_ne_zero _) _
  · exact normalizeRatio_normalized (power_pos hc ht).ne' _

/-- A tick is worth far more than the ratios are off. -/
theorem rft_lt_succ {c : Config} (hc : PowTableFloor c) {t : Int} (ht : t.natAbs < 2 ^ 20)
    (ht' : (t + 1).natAbs < 2 ^ 20) : (rft c t).lt (rft c (t + 1)) = true := by
  obtain ⟨-, hhigh⟩ := rft_near hc ht
  obtain ⟨hlow, -⟩ := rft_near hc ht'
  refine Ratio.lt_of_value_lt (rft_normalized hc ht) (rft_normalized hc ht') ?_
  have hfactor : (1 + 1 / 2 ^ 100 : ℝ) < (1 - 1 / 2 ^ 100) * tickBase := by unfold tickBase; norm_num
  calc (rft c t).value ≤ (1 + 1 / 2 ^ 100) * tickBase ^ t := hhigh
    _ < (1 - 1 / 2 ^ 100) * tickBase * tickBase ^ t := mul_lt_mul_of_pos_right hfactor (zpow_pos tickBase_pos t)
    _ = (1 - 1 / 2 ^ 100) * tickBase ^ (t + 1) := by rw [zpow_add_one₀ tickBase_pos.ne']; ring
    _ ≤ _ := hlow

/-- The ratios of a store increase with the tick (R10, R169 a). -/
def RatiosIncrease (c : Config) : Prop :=
  ∀ t : Int, minTick ≤ t → t < maxTick → (rft c t).lt (rft c (t + 1)) = true

theorem default_ratiosIncrease : RatiosIncrease Config.default := by
  intro t h0 h1
  unfold minTick at h0
  unfold maxTick at h1
  exact rft_lt_succ default_powTableFloor (by omega) (by omega)

/-- Settles O25: the ratios increase because they are near the powers of 1.0001. -/
theorem defaultRatiosAreLegalAndIncreasing : Obligations.DefaultRatiosAreLegalAndIncreasing :=
  ⟨default_ratiosIncrease, fun _ => default_rft_legal, default_rft_zero⟩

/-! ### The floor tick is the greatest -/

theorem Ratio.le_refl (x : Ratio) : x.le x = true := (Ratio.le_iff x x).2 (by omega)

theorem Ratio.le_of_lt {x y : Ratio} (h : x.lt y = true) : x.le y = true := by
  rw [Ratio.le_iff]
  rw [Ratio.lt_iff] at h
  omega

theorem Ratio.not_le_iff (x y : Ratio) : ¬ x.le y = true ↔ y.lt x = true := by
  rw [← Ratio.lt_eq_false_iff, Bool.not_eq_false]

section
variable {c : Config} (hc : RatiosIncrease c)
include hc

theorem RatiosIncrease.le {t t' : Int} (ht : minTick ≤ t) (ht' : t' ≤ maxTick) (h : t ≤ t') :
    (rft c t).le (rft c t') = true := by
  induction t', h using Int.leInduction with
  | base => exact Ratio.le_refl _
  | succ n hn ih => exact Ratio.le_trans (ih (by omega)) (Ratio.le_of_lt (hc n (by omega) (by omega)))

/-- The ratios at or below a pair are those of the ticks up to its floor tick (R172). -/
theorem RatiosIncrease.le_iff_le_floorTick {r : Ratio} {t : Int} (h : IsFloorTick c r t) {t' : Int}
    (ht' : InTickRange t') : (rft c t').le r = true ↔ t' ≤ t := by
  obtain ⟨⟨hmin, hmax⟩, hle, hnext⟩ := h
  refine ⟨fun hr => ?_, fun htt => Ratio.le_trans (hc.le ht'.1 hmax htt) hle⟩
  by_contra! hlt
  obtain hend | habove := hnext
  · exact absurd ht'.2 (by omega)
  · have hsucc := hc.le (by omega) ht'.2 (Int.add_one_le_of_lt hlt)
    exact (Ratio.not_le_iff _ _).2 habove (Ratio.le_trans hsucc hr)

end

/-- A store of either kind increases its ratios and covers its least sentinel. -/
theorem ratiosIncrease_of_default_or_regular {c : Config} (h : c = Config.default ∨ Regular c) :
    RatiosIncrease c ∧ (rft c minTick).le c.minRatio = true := by
  obtain rfl | h := h
  · exact ⟨default_ratiosIncrease, default_storeAnswers.minCovered⟩
  · exact ⟨h.increasing, h.minCovered⟩

/-- Settles O30: the search gives a floor tick, and where ratios increase that is the greatest tick. -/
theorem tfnrIsTheGreatestTick : Obligations.TfnrIsTheGreatestTick := by
  rintro a b s _ rfl hconfig hn hr
  obtain ⟨hincrease, hcovered⟩ := ratiosIncrease_of_default_or_regular hconfig
  obtain ⟨t, ht, hfloor⟩ := tickOfRatio_isFloorTick hr hn hcovered
  exact ⟨t, hfloor.1, exec_tfnr_ok ht, fun _ ht' => hincrease.le_iff_le_floorTick hfloor ht'⟩

/-! ### The tick of a tick's ratio -/

/-- In the default store the ratio of a tick lies in the ratio range, whose ends are the ratios of the extreme ticks. -/
theorem default_rft_inRatioRange {t : Int} (ht : InTickRange t) :
    InRatioRange Config.default (rft Config.default t) := by
  rw [InRatioRange, Ratio.lt_eq_false_iff, Ratio.lt_eq_false_iff, ← default_rft_minTick, ← default_rft_maxTick]
  exact ⟨default_ratiosIncrease.le le_rfl ht.2 ht.1, default_ratiosIncrease.le ht.1 le_rfl ht.2⟩

theorem default_tickOfRatio_rft {t : Int} (ht : InTickRange t) :
    tickOfRatio Config.default (rft Config.default t) = .ok t := by
  have hnormalized := Ratio.normalized_of_wordPair (Ratio.wordPair_of_legal (default_rft_legal ht))
  obtain ⟨t', ht', hfloor⟩ :=
    tickOfRatio_isFloorTick (default_rft_inRatioRange ht) hnormalized default_storeAnswers.minCovered
  have hle : t ≤ t' := (default_ratiosIncrease.le_iff_le_floorTick hfloor ht).1 (Ratio.le_refl _)
  obtain rfl | hlt := hle.eq_or_lt
  · exact ht'
  · have hnext := default_ratiosIncrease t ht.1 (hlt.trans_le hfloor.1.2)
    have hback := default_ratiosIncrease.le (by have := ht.1; omega) hfloor.1.2 (Int.add_one_le_of_lt hlt)
    exact absurd (Ratio.le_trans hback hfloor.2.1) ((Ratio.not_le_iff _ _).2 hnext)

/-- Settles O31: `RFT` answers the words of a legal ratio, and `TFNR` reads that ratio back from them. -/
theorem defaultTickRatioRoundTrip : Obligations.DefaultTickRatioRoundTrip := by
  intro t s hs ht
  have hlegal : (rft s.config t).legal = true := hs ▸ default_rft_legal ht
  have hword : (wordS t).toInt = t := by
    obtain ⟨h0, h1⟩ := ht
    unfold minTick at h0
    unfold maxTick at h1
    exact wordS_toInt (by omega) (by omega)
  have hrft := exec_rft_inRange (a := wordS t) (s := s) (by rwa [hword]) (by rwa [hword])
  rw [hword] at hrft
  refine ⟨_, _, hrft, ?_⟩
  rw [exec_tfnr_words (Ratio.wordPair_of_legal hlegal), hs, default_tickOfRatio_rft ht]
  rfl

end Sys2Proof.Machine
end

section
/-! PROOFS. The approximate-log pipeline (spec/43_ratio_tick.md R173): its digits stay below the logarithm (O32) by less
than one digit, so that in the default store its two candidates bracket the floor tick and it chooses that tick (O33). -/

namespace Sys2Proof.Machine

/-! ### One squaring -/

/-- A squaring of a normalized mantissa gives one digit and a normalized mantissa again. -/
theorem logStep_eq {m : Nat} (h : 2 ^ 127 ≤ m) (h' : m < 2 ^ 128) (l : Int) (k : Nat) :
    ∃ d : Nat, d ≤ 1 ∧ logStep (l, m) k = (l + d * 2 ^ k, m * m / 2 ^ (127 + d)) ∧
      2 ^ 127 ≤ m * m / 2 ^ (127 + d) ∧ m * m / 2 ^ (127 + d) < 2 ^ 128 := by
  have hge : 2 ^ 127 ≤ m * m / 2 ^ 127 := by
    rw [Nat.le_div_iff_mul_le (by decide)]
    exact Nat.mul_le_mul h h
  have hlt : m * m / 2 ^ 127 < 2 ^ 129 := by
    rw [Nat.div_lt_iff_lt_mul (by decide)]
    exact (Nat.mul_lt_mul'' h' h').trans_eq (by decide)
  refine ⟨m * m / 2 ^ 127 / 2 ^ 128, by omega, ?_⟩
  rw [logStep, pow_add, ← Nat.div_div_eq_div_mul]
  dsimp only
  generalize m * m / 2 ^ 127 = sq at *
  refine ⟨rfl, ?_⟩
  rcases Nat.lt_or_ge sq (2 ^ 128) with hd | hd
  · rw [Nat.div_eq_of_lt hd]
    omega
  · rw [show sq / 2 ^ 128 = 1 by omega]
    omega

/-- The logarithm of a floor quotient of at least `2^127`. -/
theorem log_floor_bounds {x d : Nat} (hd : 0 < d) (h : 2 ^ 127 ≤ x / d) :
    Real.log (x / d : Nat) ≤ Real.log x - Real.log d ∧
      Real.log x - Real.log d ≤ Real.log (x / d : Nat) + 1 / 2 ^ 127 := by
  have hx : (x : ℝ) ≠ 0 := by
    rw [Nat.cast_ne_zero]
    rintro rfl
    simp at h
  have hd' : (d : ℝ) ≠ 0 := Nat.cast_ne_zero.2 hd.ne'
  have hq : (0 : ℝ) < (x / d : Nat) := Nat.cast_pos.2 (lt_of_lt_of_le (by decide) h)
  have hfactor : (0 : ℝ) < 1 + 1 / 2 ^ 127 := by norm_num
  rw [← Real.log_div hx hd']
  refine ⟨Real.log_le_log hq Nat.cast_div_le, ?_⟩
  calc Real.log (x / d) ≤ Real.log ((1 + 1 / 2 ^ 127) * (x / d : Nat)) :=
        Real.log_le_log (by positivity) (div_le_mul_floor hd h)
    _ = Real.log (1 + 1 / 2 ^ 127) + Real.log (x / d : Nat) := Real.log_mul hfactor.ne' hq.ne'
    _ ≤ _ := by linarith [Real.log_le_sub_one_of_pos hfactor]

/-- A squaring in logarithms: the digit and the new mantissa make up twice the old one, but for the low bits dropped. -/
theorem log_square_bounds {m d : Nat} (h0 : m ≠ 0) (h : 2 ^ 127 ≤ m * m / 2 ^ (127 + d)) :
    Real.log (m * m / 2 ^ (127 + d) : Nat) + (127 + d) * Real.log 2 ≤ 2 * Real.log m ∧
      2 * Real.log m ≤ Real.log (m * m / 2 ^ (127 + d) : Nat) + (127 + d) * Real.log 2 + 1 / 2 ^ 127 := by
  obtain ⟨hlow, hhigh⟩ := log_floor_bounds (Nat.two_pow_pos _) h
  have hm : (m : ℝ) ≠ 0 := Nat.cast_ne_zero.2 h0
  have hsquare : Real.log (m * m : Nat) = 2 * Real.log m := by
    rw [Nat.cast_mul, Real.log_mul hm hm, two_mul]
  have hpow : Real.log (2 ^ (127 + d) : Nat) = (127 + d) * Real.log 2 := by
    rw [Nat.cast_pow, Real.log_pow]
    push_cast
    ring
  rw [hsquare, hpow] at hlow hhigh
  exact ⟨by linarith, by linarith⟩

/-! ### All the digits -/

/-- The positions of the digits from `n` digits on, the highest first. -/
def logPositions : Nat → List Nat
  | 0 => []
  | n + 1 => n :: logPositions n

/-- The digits that `n` squarings give are those of `2^n` times the base-2 logarithm of `m / 2^127`, rounded down, but
for the low bits dropped. -/
theorem foldl_logStep (n : Nat) {m : Nat} (h : 2 ^ 127 ≤ m) (h' : m < 2 ^ 128) (l : Int) :
    ∃ b : Nat, b < 2 ^ n ∧ ((logPositions n).foldl logStep (l, m)).1 = l + b ∧
      (b + 127 * 2 ^ n) * Real.log 2 ≤ 2 ^ n * Real.log m ∧
      2 ^ n * Real.log m ≤ (b + 1 + 127 * 2 ^ n) * Real.log 2 + 2 ^ n / 2 ^ 127 := by
  induction n generalizing m l with
  | zero =>
    have hlow : Real.log (2 ^ 127) ≤ Real.log m := Real.log_le_log (by norm_num) (by exact_mod_cast h)
    have hpos : (0 : ℝ) < m := Nat.cast_pos.2 (lt_of_lt_of_le (by decide) h)
    have hhigh : Real.log m ≤ Real.log (2 ^ 128) := Real.log_le_log hpos (by exact_mod_cast h'.le)
    rw [Real.log_pow] at hlow hhigh
    push_cast at hlow hhigh
    exact ⟨0, by decide, by simp [logPositions], by push_cast; linarith, by push_cast; linarith⟩
  | succ n ih =>
    obtain ⟨d, hd, hstep, hge, hlt⟩ := logStep_eq h h' l n
    obtain ⟨b, hb, hdigits, hlow, hhigh⟩ := ih hge hlt (l + d * 2 ^ n)
    obtain ⟨hlow', hhigh'⟩ := log_square_bounds (by omega) hge
    have hpow : (0 : ℝ) ≤ 2 ^ n := by positivity
    refine ⟨d * 2 ^ n + b, ?_, ?_, ?_, ?_⟩
    · have hdigit := Nat.mul_le_mul_right (2 ^ n) hd
      omega
    · rw [logPositions, List.foldl_cons, hstep, hdigits]
      push_cast
      ring
    · have hscaled := mul_le_mul_of_nonneg_left hlow' hpow
      push_cast
      rw [pow_succ]
      linarith
    · have hscaled := mul_le_mul_of_nonneg_left hhigh' hpow
      push_cast
      rw [pow_succ]
      linarith

/-- The logarithm of the pipeline: the integer part and 13 binary digits (R173). -/
theorem logDigits_eq {r : Ratio} (h : r.normalized = true) :
    ∃ b : Nat, b < 2 ^ 13 ∧ logDigits r = (127 - r.exponent) * 2 ^ 13 + b ∧
      (b + 127 * 2 ^ 13) * Real.log 2 ≤ 2 ^ 13 * Real.log r.mantissa ∧
      2 ^ 13 * Real.log r.mantissa ≤ (b + 1 + 127 * 2 ^ 13) * Real.log 2 + 2 ^ 13 / 2 ^ 127 := by
  obtain ⟨hge, hlt⟩ := (Ratio.normalized_iff r).1 h
  exact foldl_logStep 13 hge hlt _

/-- A comparison of powers by logarithms. -/
theorem two_pow_le_pow_of_log {k n m : Nat} (hm : 0 < m) (h : k * Real.log 2 ≤ n * Real.log m) : 2 ^ k ≤ m ^ n := by
  rw [← Real.log_pow, ← Real.log_pow] at h
  exact_mod_cast (Real.log_le_log_iff (by positivity) (by positivity)).1 h

/-- Settles O32: the digits are those of a logarithm rounded down. -/
theorem logDigitsStayBelowTheLogarithm : Obligations.LogDigitsStayBelowTheLogarithm := by
  intro m e hge hlt he
  obtain ⟨b, hb, hdigits, hlow, -⟩ := logDigits_eq (r := ⟨m, e⟩) ((Ratio.normalized_iff _).2 ⟨hge, hlt⟩)
  rw [hdigits]
  dsimp only at hlow ⊢
  refine ⟨by omega, by omega, by omega, ?_⟩
  have hexp : ((127 - (e : Int)) * 2 ^ 13 + b + 2 ^ 13 * e).toNat = b + 127 * 2 ^ 13 := by omega
  rw [hexp]
  exact two_pow_le_pow_of_log (by omega) (by push_cast; linarith)

/-! ### The digits and the logarithm of the ratio -/

theorem Ratio.value_pos {r : Ratio} (h : r.normalized = true) : 0 < r.value :=
  mul_pos (Nat.cast_pos.2 (lt_of_lt_of_le (by decide) ((Ratio.normalized_iff r).1 h).1)) (zpow_pos two_pos _)

theorem Ratio.log_value {r : Ratio} (h : r.normalized = true) :
    Real.log r.value = Real.log r.mantissa - r.exponent * Real.log 2 := by
  have hm : (r.mantissa : ℝ) ≠ 0 :=
    Nat.cast_ne_zero.2 (lt_of_lt_of_le (by decide) ((Ratio.normalized_iff r).1 h).1).ne'
  rw [Ratio.value, Real.log_mul hm (zpow_ne_zero _ two_ne_zero), Real.log_zpow]
  push_cast
  ring

/-- `L / 2^13` is below the base-2 logarithm of the ratio by at most one digit and what the squarings drop (R173). -/
theorem logDigits_bounds {r : Ratio} (h : r.normalized = true) :
    logDigits r / 2 ^ 13 * Real.log 2 ≤ Real.log r.value ∧
      Real.log r.value ≤ logDigits r / 2 ^ 13 * Real.log 2 + Real.log 2 / 2 ^ 13 + 1 / 2 ^ 127 := by
  obtain ⟨b, -, hdigits, hlow, hhigh⟩ := logDigits_eq h
  have hcast : (logDigits r : ℝ) = (127 - r.exponent) * 2 ^ 13 + b := by
    rw [hdigits]
    push_cast
    ring
  rw [Ratio.log_value h, hcast]
  exact ⟨by linarith, by linarith⟩

theorem abs_logDigits_le {r : Ratio} (h : r.legal = true) : |(logDigits r : ℝ) / 2 ^ 13| ≤ 128 := by
  obtain ⟨hm, h0, h1⟩ := (Ratio.legal_iff r).1 h
  obtain ⟨b, hb, hdigits, -⟩ := logDigits_eq ((Ratio.normalized_iff r).2 hm)
  have hlow : -2 ^ 20 ≤ logDigits r := by omega
  have hhigh : logDigits r ≤ 2 ^ 20 := by omega
  have hlow' : (-2 ^ 20 : ℝ) ≤ logDigits r := by exact_mod_cast hlow
  have hhigh' : (logDigits r : ℝ) ≤ 2 ^ 20 := by exact_mod_cast hhigh
  exact abs_le.2 ⟨by linarith, by linarith⟩

/-! ### The constants of the default store -/

/-- The logarithm of 1.0001, by its series. -/
theorem log_tickBase_near :
    |Real.log tickBase - (1 / 10 ^ 4 - 1 / (2 * 10 ^ 8) + 1 / (3 * 10 ^ 12))| ≤ 2 / 10 ^ 16 := by
  have hseries := Real.abs_log_sub_add_sum_range_le (x := -(1 / 10 ^ 4)) (by norm_num [abs_lt]) 3
  have hbase : (1 : ℝ) - -(1 / 10 ^ 4) = tickBase := by unfold tickBase; norm_num
  have hsum : ∑ i ∈ Finset.range 3, (-(1 / 10 ^ 4) : ℝ) ^ (i + 1) / (i + 1) =
      -(1 / 10 ^ 4 - 1 / (2 * 10 ^ 8) + 1 / (3 * 10 ^ 12)) := by
    norm_num [Finset.sum_range_succ]
  rw [hbase, hsum, neg_add_eq_sub] at hseries
  exact hseries.trans (by norm_num [abs_of_pos])

/-- The base change constant of the default store as a factor (R29). -/
noncomputable def logFactor : ℝ := Config.default.logBp / 2 ^ 235

/-- The factor changes the base from 2 to 1.0001, far more closely than the offsets of R30 need. -/
theorem logFactor_near : |logFactor * Real.log tickBase - Real.log 2| ≤ 1 / 10 ^ 9 := by
  have htwo := Real.log_two_gt_d9
  have htwo' := Real.log_two_lt_d9
  obtain ⟨hlow, hhigh⟩ := abs_le.1 log_tickBase_near
  unfold logFactor Config.default
  push_cast
  exact abs_le.2 ⟨by linarith, by linarith⟩

/-- The base change costs at most `128 / 10^9` over the range of the digits. -/
theorem logDigits_baseChange {r : Ratio} (h : r.legal = true) :
    |logDigits r / 2 ^ 13 * logFactor * Real.log tickBase - logDigits r / 2 ^ 13 * Real.log 2| ≤ 128 / 10 ^ 9 := by
  have hmul := mul_le_mul (abs_logDigits_le h) logFactor_near (abs_nonneg _) (by norm_num)
  rw [← abs_mul, mul_sub, ← mul_assoc] at hmul
  exact hmul.trans_eq (by norm_num)

/-! ### The two candidates -/

/-- The lower candidate of the default store, as a bound on real numbers. -/
theorem default_tickLow_le {r : Ratio} :
    (tickLow Config.default r : ℝ) ≤ logDigits r / 2 ^ 13 * logFactor - 1 / 2 ^ 7 := by
  have hfloor : tickLow Config.default r * 2 ^ 248 ≤
      logDigits r * Config.default.logBp - Config.default.tickErrLow := Int.ediv_mul_le _ (by decide)
  have hfloor' : (tickLow Config.default r : ℝ) * 2 ^ 248 ≤
      logDigits r * Config.default.logBp - Config.default.tickErrLow := by exact_mod_cast hfloor
  have herr : (Config.default.tickErrLow : ℝ) = 2 ^ 241 := by norm_num [Config.default]
  rw [herr] at hfloor'
  unfold logFactor
  linarith

/-- The upper candidate of the default store, as a bound on real numbers. -/
theorem default_lt_tickHigh {r : Ratio} :
    logDigits r / 2 ^ 13 * logFactor + 55 / 2 ^ 6 < tickHigh Config.default r + 1 := by
  have hfloor : logDigits r * Config.default.logBp + Config.default.tickErrHigh <
      (tickHigh Config.default r + 1) * 2 ^ 248 := Int.lt_ediv_add_one_mul_self _ (by decide)
  have hfloor' : (logDigits r * Config.default.logBp + Config.default.tickErrHigh : ℝ) <
      (tickHigh Config.default r + 1) * 2 ^ 248 := by exact_mod_cast hfloor
  have herr : (Config.default.tickErrHigh : ℝ) = 55 * 2 ^ 242 := by norm_num [Config.default]
  rw [herr] at hfloor'
  unfold logFactor
  linarith

/-- The offsets sum to less than a tick (R30). -/
theorem default_tickHigh_le_tickLow (r : Ratio) :
    tickHigh Config.default r ≤ tickLow Config.default r + 1 := by
  have hlow : Config.default.tickErrLow = 2 ^ 241 := rfl
  have hhigh : Config.default.tickErrHigh = 55 * 2 ^ 242 := rfl
  rw [tickHigh, tickLow, hlow, hhigh]
  omega

section
variable {r : Ratio} {t : Int} (hr : r.legal = true)
include hr

/-- The lower candidate does not exceed a tick when the pair lies below the next tick's ratio. -/
theorem default_tickLow_le_of_lt (ht : (t + 1).natAbs < 2 ^ 20)
    (h : r.lt (rft Config.default (t + 1)) = true) : tickLow Config.default r ≤ t := by
  by_contra! hlt
  have hnormalized := Ratio.normalized_of_wordPair (Ratio.wordPair_of_legal hr)
  have hlog : Real.log r.value ≤ (t + 1) * Real.log tickBase + 1 / 2 ^ 100 := by
    have hvalue := (Ratio.value_lt_of_lt hnormalized (rft_normalized default_powTableFloor ht) h).le.trans
      (rft_near default_powTableFloor ht).2
    have hfactor : (0 : ℝ) < 1 + 1 / 2 ^ 100 := by norm_num
    have hmono := Real.log_le_log (Ratio.value_pos hnormalized) hvalue
    rw [Real.log_mul hfactor.ne' (zpow_pos tickBase_pos _).ne', Real.log_zpow] at hmono
    push_cast at hmono
    linarith [Real.log_le_sub_one_of_pos hfactor]
  have hcandidate : (t + 1 + 1 / 2 ^ 7 : ℝ) ≤ logDigits r / 2 ^ 13 * logFactor := by
    have hcast : (t + 1 : ℝ) ≤ tickLow Config.default r := by exact_mod_cast hlt
    linarith [default_tickLow_le (r := r)]
  have hscaled := mul_le_mul_of_nonneg_right hcandidate (Real.log_pos one_lt_tickBase).le
  have hbase := abs_le.1 log_tickBase_near
  have hchange := abs_le.1 (logDigits_baseChange hr)
  have hdigits := (logDigits_bounds hnormalized).1
  linarith [hbase.1, hchange.2]

/-- A tick whose ratio the pair reaches does not exceed the upper candidate. -/
theorem default_le_tickHigh_of_le (ht : t.natAbs < 2 ^ 20)
    (h : (rft Config.default t).le r = true) : t ≤ tickHigh Config.default r := by
  by_contra! hlt
  have hnormalized := Ratio.normalized_of_wordPair (Ratio.wordPair_of_legal hr)
  have hlog : t * Real.log tickBase ≤ Real.log r.value + 1 / 2 ^ 99 := by
    have hvalue := (rft_near default_powTableFloor ht).1.trans
      (Ratio.value_le_of_le (rft_normalized default_powTableFloor ht) hnormalized h)
    have hfactor : (0 : ℝ) < 1 - 1 / 2 ^ 100 := by norm_num
    have hpow := zpow_pos tickBase_pos t
    have hmono := Real.log_le_log (mul_pos hfactor hpow) hvalue
    rw [Real.log_mul hfactor.ne' hpow.ne', Real.log_zpow] at hmono
    have hloss : -(1 / 2 ^ 99 : ℝ) ≤ 1 - (1 - 1 / 2 ^ 100)⁻¹ := by norm_num
    linarith [Real.one_sub_inv_le_log_of_pos hfactor]
  have hcandidate : logDigits r / 2 ^ 13 * logFactor + 55 / 2 ^ 6 ≤ (t : ℝ) := by
    have hcast : (tickHigh Config.default r + 1 : ℝ) ≤ t := by exact_mod_cast hlt
    linarith [default_lt_tickHigh (r := r)]
  have hscaled := mul_le_mul_of_nonneg_right hcandidate (Real.log_pos one_lt_tickBase).le
  have hbase := abs_le.1 log_tickBase_near
  have hchange := abs_le.1 (logDigits_baseChange hr)
  have hdigits := (logDigits_bounds hnormalized).2
  linarith [hbase.1, hchange.1, Real.log_two_lt_d9]

end

/-! ### The choice between the candidates -/

/-- Of two candidates that bracket the floor tick and are at most one apart, the pipeline chooses it. -/
theorem tickByLog_eq {c : Config} {r : Ratio} {t : Int} (hlow : tickLow c r ≤ t) (hhigh : t ≤ tickHigh c r)
    (hapart : tickHigh c r ≤ tickLow c r + 1) (hle : (rft c t).le r = true) (hnext : r.lt (rft c (t + 1)) = true) :
    tickByLog c r = t := by
  unfold tickByLog
  obtain hlt | rfl := hhigh.lt_or_eq
  · rw [if_pos (.inr (by rwa [show tickHigh c r = t + 1 by omega]))]
    omega
  · split
    · next hcase =>
      obtain heq | habove := hcase
      · exact heq
      · exact absurd hle ((Ratio.not_le_iff _ _).2 habove)
    · rfl

/-- In the default store a pair of the ratio range has an exponent between those of the sentinels. -/
theorem default_legal_of_inRatioRange {r : Ratio} (hn : r.normalized = true) (h : InRatioRange Config.default r) :
    r.legal = true := by
  obtain ⟨hmin, hmax⟩ := h
  rw [Ratio.lt_eq_false_iff, Ratio.le_iff] at hmin hmax
  have hminExp : Config.default.minRatio.exponent = 255 := rfl
  have hmaxExp : Config.default.maxRatio.exponent = 0 := rfl
  rw [Ratio.legal_iff]
  exact ⟨(Ratio.normalized_iff r).1 hn, by omega, by omega⟩

/-- In the default store a pair of the range lies below the ratio after its floor tick, also after the greatest tick. -/
theorem default_lt_next {r : Ratio} {t : Int} (h : InRatioRange Config.default r) (ht : IsFloorTick Config.default r t) :
    r.lt (rft Config.default (t + 1)) = true := by
  obtain ⟨-, -, rfl | hnext⟩ := ht
  · have hmax : r.le (rft Config.default maxTick) = true := by
      rw [default_rft_maxTick]
      exact (Ratio.lt_eq_false_iff _ _).1 h.2
    rw [← Ratio.not_le_iff]
    intro hback
    have hlt := rft_lt_succ default_powTableFloor (t := maxTick) (by decide) (by decide)
    exact (Ratio.not_le_iff _ _).2 hlt (Ratio.le_trans hback hmax)
  · exact hnext

/-- Settles O33: the floor tick lies between the two candidates, and the choice between them is by the floor property. -/
theorem defaultLogPipelineMeetsTheDefinition : Obligations.DefaultLogPipelineMeetsTheDefinition := by
  intro r hn h
  obtain ⟨t, ht, hfloor⟩ := tfnr_isFloorTick (h.covered default_storeAnswers.minCovered)
  have hlegal := default_legal_of_inRatioRange hn h
  have hnext := default_lt_next h hfloor
  obtain ⟨hrange, hle, -⟩ := hfloor
  have hrange' : (t + 1).natAbs < 2 ^ 20 := by
    unfold InTickRange minTick maxTick at hrange
    omega
  rw [ht, tickByLog_eq (default_tickLow_le_of_lt hlegal hrange' hnext)
    (default_le_tickHigh_of_le hlegal hrange.natAbs_lt hle) (default_tickHigh_le_tickLow r) hle hnext]

end Sys2Proof.Machine
end

section
/-! PROOFS. The amount conversions (spec/44_amount_conversion.md): `IFO` (O38), `IFOUP` (O39), `OFI` (O40) and `OFIUP`
(O41), the outbound commands as the inbound ones at the negated tick (O42), the relation of the two roundings (O43), and
monotonicity in the amount and the tick (O44). -/

namespace Sys2Proof.Machine

/-! ### Rounding a quotient by a power of 2 -/

/-- `n / 2^k` rounded up or down (R190). -/
def roundShift : (up : Bool) → (n k : Nat) → Nat
  | true, n, k => ceilShift n k
  | false, n, k => n / 2 ^ k

theorem roundShift_up (n k : Nat) : roundShift true n k = (n + (2 ^ k - 1)) / 2 ^ k := ceilShift_eq_add_div n k

theorem roundShift_down (n k : Nat) : roundShift false n k = n / 2 ^ k := rfl

theorem roundShift_le (up : Bool) (n k : Nat) : roundShift up n k ≤ n := by
  cases up with
  | true => exact ceilShift_le n k
  | false => exact Nat.div_le_self n _

theorem ceilShift_le_iff {n k q : Nat} : ceilShift n k ≤ q ↔ n ≤ 2 ^ k * q := by
  rw [ceilShift_eq_add_div, Nat.div_le_iff_le_mul_add_pred (Nat.two_pow_pos k), Nat.add_le_add_iff_right]

/-- Rounding keeps the order of two fractions, which is stated by cross-multiplying. -/
theorem roundShift_mono (up : Bool) {n k n' k' : Nat} (h : n * 2 ^ k' ≤ n' * 2 ^ k) :
    roundShift up n k ≤ roundShift up n' k' := by
  have hk : 0 < 2 ^ k := Nat.two_pow_pos k
  have hk' : 0 < 2 ^ k' := Nat.two_pow_pos k'
  cases up with
  | true =>
    have hup : n' ≤ 2 ^ k' * ceilShift n' k' := ceilShift_le_iff.1 le_rfl
    refine ceilShift_le_iff.2 (Nat.le_of_mul_le_mul_right ?_ hk')
    calc n * 2 ^ k' ≤ n' * 2 ^ k := h
      _ ≤ 2 ^ k' * ceilShift n' k' * 2 ^ k := Nat.mul_le_mul_right _ hup
      _ = 2 ^ k * ceilShift n' k' * 2 ^ k' := by ring
  | false =>
    have hdown : n / 2 ^ k * 2 ^ k ≤ n := Nat.div_mul_le_self n _
    refine (Nat.le_div_iff_mul_le hk').2 (Nat.le_of_mul_le_mul_right ?_ hk)
    calc n / 2 ^ k * 2 ^ k' * 2 ^ k = n / 2 ^ k * 2 ^ k * 2 ^ k' := by ring
      _ ≤ n * 2 ^ k' := Nat.mul_le_mul_right _ hdown
      _ ≤ n' * 2 ^ k := h

/-! ### The four commands as one evaluation -/

/-- What the four commands compute: the test of the tick as presented, then the ratio of the tick that `f` makes of it,
applied to the amount (R190 to R194). -/
def conversion (c : Config) (f : Int → Int) (up : Bool) (a b : Word) : Eval (Word × Word) := do
  let t ← tickOperand a
  let q ← applyRatio c (f t) b.toNat up
  return single (wordU q)

theorem exec_ifo (a b : Word) (s : State) : exec (.ifo a b) s = answer s (conversion s.config id false a b) := rfl

theorem exec_ifoup (a b : Word) (s : State) : exec (.ifoup a b) s = answer s (conversion s.config id true a b) := rfl

theorem exec_ofi (a b : Word) (s : State) : exec (.ofi a b) s = answer s (conversion s.config Neg.neg false a b) := rfl

theorem exec_ofiup (a b : Word) (s : State) : exec (.ofiup a b) s = answer s (conversion s.config Neg.neg true a b) :=
  rfl

section
variable {c : Config} {f : Int → Int} {up : Bool} {a b : Word}

theorem conversion_tooLow (h : a.toInt < minTick) : conversion c f up a b = raise .tickTooLow := by
  rw [conversion, tickOperand_eq, if_pos h, raise_bind]

theorem conversion_tooHigh (h : maxTick < a.toInt) : conversion c f up a b = raise .tickTooHigh := by
  have hlow : ¬ a.toInt < minTick := by unfold minTick; unfold maxTick at h; omega
  rw [conversion, tickOperand_eq, if_neg hlow, if_pos h, raise_bind]

theorem conversion_inTickRange (h : InTickRange a.toInt) : conversion c f up a b =
    applyRatio c (f a.toInt) b.toNat up >>= fun q => .ok (single (wordU q)) := by
  rw [conversion, tickOperand_eq, if_neg (Int.not_lt.2 h.1), if_neg (Int.not_lt.2 h.2), ok_bind]
  rfl

theorem conversion_overflow (h : InTickRange a.toInt) (hr : (rft c (f a.toInt)).legal = true)
    (hp : 2 ^ 256 ≤ (rft c (f a.toInt)).mantissa * b.toNat) : conversion c f up a b = raise .overflow := by
  rw [conversion_inTickRange h, applyRatio_eq hr, if_pos hp, raise_bind]

theorem conversion_fits (h : InTickRange a.toInt) (hr : (rft c (f a.toInt)).legal = true)
    (hp : (rft c (f a.toInt)).mantissa * b.toNat < 2 ^ 256) : conversion c f up a b =
      .ok (wordU (roundShift up ((rft c (f a.toInt)).mantissa * b.toNat) (rft c (f a.toInt)).exponent.toNat), 0) := by
  rw [conversion_inTickRange h, applyRatio_eq hr, if_neg (Nat.not_le.2 hp), ok_bind]
  cases up <;> rfl

/-- A command that converts fails in the order of R190, and else answers the rounded quotient of the product. -/
theorem exec_conversion {i : Instr} {s : State} (hi : exec i s = answer s (conversion s.config f up a b)) :
    (a.toInt < -887272 → exec i s = .next (s.deliver (.err .tickTooLow))) ∧
      (887272 < a.toInt → exec i s = .next (s.deliver (.err .tickTooHigh))) ∧
      (InTickRange a.toInt → (rft s.config (f a.toInt)).legal = true →
        (2 ^ 256 ≤ (rft s.config (f a.toInt)).mantissa * b.toNat →
          exec i s = .next (s.deliver (.err .overflow))) ∧
        ((rft s.config (f a.toInt)).mantissa * b.toNat < 2 ^ 256 →
          ∃ r : Word, exec i s = .next (s.deliver (.ok r 0)) ∧
            r.toNat = roundShift up ((rft s.config (f a.toInt)).mantissa * b.toNat)
              (rft s.config (f a.toInt)).exponent.toNat)) := by
  refine ⟨fun hlow => ?_, fun hhigh => ?_, fun h hr => ⟨fun hp => ?_, fun hp =>
    ⟨_, ?_, wordU_toNat ((roundShift_le _ _ _).trans_lt hp)⟩⟩⟩
  · rw [hi, conversion_tooLow hlow, answer_raise, State.takeError_eq]
  · rw [hi, conversion_tooHigh hhigh, answer_raise, State.takeError_eq]
  · rw [hi, conversion_overflow h hr hp, answer_raise, State.takeError_eq]
  · rw [hi, conversion_fits h hr hp, answer_ok]

end

/-- Settles O38: the ratio of the tick itself, rounded down. -/
theorem ifoAppliesTheRatioRoundingDown : Obligations.IfoAppliesTheRatioRoundingDown := by
  intro a b s
  refine ⟨decode_make _ _ _, ?_⟩
  simpa only [roundShift_down, id] using exec_conversion (exec_ifo a b s)

/-- Settles O39: the ratio of the tick itself, rounded up. -/
theorem ifoupAppliesTheRatioRoundingUp : Obligations.IfoupAppliesTheRatioRoundingUp := by
  intro a b s
  refine ⟨decode_make _ _ _, ?_⟩
  simpa only [roundShift_up, id] using exec_conversion (exec_ifoup a b s)

/-- Settles O40: the ratio of the negated tick, rounded down. -/
theorem ofiAppliesTheNegatedTickRoundingDown : Obligations.OfiAppliesTheNegatedTickRoundingDown := by
  intro a b s
  refine ⟨decode_make _ _ _, ?_⟩
  simpa only [roundShift_down] using exec_conversion (exec_ofi a b s)

/-- Settles O41: the ratio of the negated tick, rounded up. -/
theorem ofiupAppliesTheNegatedTickRoundingUp : Obligations.OfiupAppliesTheNegatedTickRoundingUp := by
  intro a b s
  refine ⟨decode_make _ _ _, ?_⟩
  simpa only [roundShift_up] using exec_conversion (exec_ofiup a b s)

/-! ### Outbound and inbound -/

theorem InTickRange.toInt_wordS {t : Int} (h : InTickRange t) : (wordS t).toInt = t := by
  unfold InTickRange minTick maxTick at h
  exact wordS_toInt (by omega) (by omega)

/-- The tick range is symmetric, so that both ticks pass their tests and the same ratio is applied (R193). -/
theorem conversion_neg {t : Int} (h : InTickRange t) (c : Config) (up : Bool) (x : Word) :
    conversion c Neg.neg up (wordS t) x = conversion c id up (wordS (-t)) x := by
  have ht := h.toInt_wordS
  have ht' := h.neg.toInt_wordS
  rw [conversion_inTickRange (ht.symm ▸ h), conversion_inTickRange (ht'.symm ▸ h.neg), ht, ht', id]

/-- Settles O42: the ratio of the negated tick is applied on both sides. -/
theorem outboundConversionIsInboundOfNegatedTick : Obligations.OutboundConversionIsInboundOfNegatedTick := by
  intro t x s h
  rw [exec_ofi, exec_ofiup, exec_ifo, exec_ifoup, conversion_neg h, conversion_neg h]
  exact ⟨rfl, rfl⟩

/-! ### The two roundings -/

/-- Both roundings of a conversion make the same tests before they round (R195 a, b). -/
theorem exec_conversion_up_down {f : Int → Int} {a b : Word} {i i' : Instr} {s : State}
    (hi : exec i s = answer s (conversion s.config f false a b))
    (hi' : exec i' s = answer s (conversion s.config f true a b))
    (hr : InTickRange a.toInt → (rft s.config (f a.toInt)).legal = true) :
    (∃ k, exec i s = .next (s.deliver (.err k)) ∧ exec i' s = .next (s.deliver (.err k))) ∨
      ∃ q q' : Word, exec i s = .next (s.deliver (.ok q 0)) ∧ exec i' s = .next (s.deliver (.ok q' 0)) ∧
        (q' = q ∨ q'.toNat = q.toNat + 1) := by
  rw [hi, hi']
  rcases lt_or_ge a.toInt minTick with hlow | hmin
  · rw [conversion_tooLow hlow, conversion_tooLow hlow]
    exact .inl ⟨_, rfl, rfl⟩
  rcases lt_or_ge maxTick a.toInt with hhigh | hmax
  · rw [conversion_tooHigh hhigh, conversion_tooHigh hhigh]
    exact .inl ⟨_, rfl, rfl⟩
  have h : InTickRange a.toInt := ⟨hmin, hmax⟩
  rcases Nat.lt_or_ge ((rft s.config (f a.toInt)).mantissa * b.toNat) (2 ^ 256) with hp | hp
  · rw [conversion_fits h (hr h) hp, conversion_fits h (hr h) hp]
    exact .inr ⟨_, _, rfl, rfl, wordU_ceilShift hp⟩
  · rw [conversion_overflow h (hr h) hp, conversion_overflow h (hr h) hp]
    exact .inl ⟨_, rfl, rfl⟩

/-- Settles O43: each pair of commands differs in the rounding alone. -/
theorem upConversionsExceedDownByAtMostOne : Obligations.UpConversionsExceedDownByAtMostOne := fun a b s hr =>
  ⟨exec_conversion_up_down (exec_ifo a b s) (exec_ifoup a b s) fun h => (hr h).1,
    exec_conversion_up_down (exec_ofi a b s) (exec_ofiup a b s) fun h => (hr h).2⟩

/-! ### Monotonicity -/

/-- The order of legal ratios, over the integers: their fractions compared by cross-multiplying. -/
theorem Ratio.cross_mul_le_of_le {x y : Ratio} (hx : x.legal = true) (hy : y.legal = true) (h : x.le y = true) :
    x.mantissa * 2 ^ y.exponent.toNat ≤ y.mantissa * 2 ^ x.exponent.toNat := by
  have hvalue : x.value ≤ y.value := Ratio.value_le_of_le (Ratio.normalized_of_wordPair (Ratio.wordPair_of_legal hx))
    (Ratio.normalized_of_wordPair (Ratio.wordPair_of_legal hy)) h
  obtain ⟨-, hx0, -⟩ := (Ratio.legal_iff x).1 hx
  obtain ⟨-, hy0, -⟩ := (Ratio.legal_iff y).1 hy
  rw [← Nat.cast_le (α := ℝ)]
  simp only [Nat.cast_mul, Nat.cast_pow, Nat.cast_ofNat, Ratio.mantissa_eq hx0, Ratio.mantissa_eq hy0]
  rw [mul_right_comm y.value]
  gcongr

/-- A conversion of a tick in range that answers OK answers the rounded quotient of the product. -/
theorem toNat_of_exec_conversion_ok {f : Int → Int} {up : Bool} {t : Int} {x q : Word} {i : Instr} {s : State}
    (hi : exec i s = answer s (conversion s.config f up (wordS t) x)) (h : InTickRange t)
    (hr : (rft s.config (f t)).legal = true) (hok : exec i s = .next (s.deliver (.ok q 0))) :
    q.toNat = roundShift up ((rft s.config (f t)).mantissa * x.toNat) (rft s.config (f t)).exponent.toNat := by
  obtain ⟨-, -, hinRange⟩ := exec_conversion hi
  rw [h.toInt_wordS] at hinRange
  obtain ⟨hoverflow, hfits⟩ := hinRange h hr
  rcases Nat.lt_or_ge ((rft s.config (f t)).mantissa * x.toNat) (2 ^ 256) with hp | hp
  · obtain ⟨r, hexec, hvalue⟩ := hfits hp
    cases hok.symm.trans hexec
    exact hvalue
  · cases hok.symm.trans (hoverflow hp)

/-- Where ratios are legal and increase, an inbound conversion is monotone in the amount and in the tick (R195 c). -/
theorem inbound_conversion_mono {up : Bool} {t t' : Int} {x x' q q' : Word} {i i' : Instr} {s : State}
    (hlegal : ∀ t, InTickRange t → (rft s.config t).legal = true) (hincrease : RatiosIncrease s.config)
    (hi : exec i s = answer s (conversion s.config id up (wordS t) x))
    (hi' : exec i' s = answer s (conversion s.config id up (wordS t') x'))
    (h : InTickRange t) (h' : InTickRange t') (ht : t ≤ t') (hx : x.toNat ≤ x'.toNat)
    (hok : exec i s = .next (s.deliver (.ok q 0))) (hok' : exec i' s = .next (s.deliver (.ok q' 0))) :
    q.toNat ≤ q'.toNat := by
  rw [toNat_of_exec_conversion_ok hi h (hlegal t h) hok, toNat_of_exec_conversion_ok hi' h' (hlegal t' h') hok']
  have hcross := Ratio.cross_mul_le_of_le (hlegal t h) (hlegal t' h') (hincrease.le h.1 h'.2 ht)
  refine roundShift_mono up ?_
  rw [id, id, Nat.mul_right_comm, Nat.mul_right_comm _ x'.toNat]
  exact Nat.mul_le_mul hcross hx

/-- Settles O44: the inbound commands by the order of the ratios, the outbound ones as inbound ones of negated ticks. -/
theorem conversionsAreMonotone : Obligations.ConversionsAreMonotone := by
  intro t t' x x' s q q' hconfig h h' ht hx
  have hlegal : ∀ t, InTickRange t → (rft s.config t).legal = true := by
    obtain hdefault | hregular := hconfig
    · rw [hdefault]
      exact fun _ => default_rft_legal
    · exact hregular.legal
  obtain ⟨hincrease, -⟩ := ratiosIncrease_of_default_or_regular hconfig
  obtain ⟨hofi, hofiup⟩ := outboundConversionIsInboundOfNegatedTick t x' s h
  obtain ⟨hofi', hofiup'⟩ := outboundConversionIsInboundOfNegatedTick t' x s h'
  rw [hofi, hofiup, hofi', hofiup']
  exact ⟨inbound_conversion_mono hlegal hincrease (exec_ifo _ _ s) (exec_ifo _ _ s) h h' ht hx,
    inbound_conversion_mono hlegal hincrease (exec_ifoup _ _ s) (exec_ifoup _ _ s) h h' ht hx,
    inbound_conversion_mono hlegal hincrease (exec_ifo _ _ s) (exec_ifo _ _ s) h'.neg h.neg (neg_le_neg ht) hx,
    inbound_conversion_mono hlegal hincrease (exec_ifoup _ _ s) (exec_ifoup _ _ s) h'.neg h.neg (neg_le_neg ht) hx⟩

end Sys2Proof.Machine
end

section
/-! PROOFS. The exceptions of a command (spec/60_exceptions.md): which kinds each operation can raise, and the table of
R202 (O53). -/

namespace Sys2Proof.Machine

/-! ### The kinds an evaluation can raise -/

/-- If the evaluation raises an error, its kind is one of those listed. -/
def RaisesOnly {α : Type} (ks : List ErrorKind) (e : Eval α) : Prop := ∀ k, e = raise k → k ∈ ks

section
variable {α β : Type} {ks : List ErrorKind}

theorem raisesOnly_ok (x : α) : RaisesOnly ks (.ok x : Eval α) := nofun

theorem raisesOnly_outsideDomain : RaisesOnly ks (.error .outsideDomain : Eval α) := nofun

theorem raisesOnly_raise {k : ErrorKind} (h : k ∈ ks) : RaisesOnly ks (raise k : Eval α) := by
  intro k' hk
  cases hk
  exact h

theorem RaisesOnly.mono {ks' : List ErrorKind} {e : Eval α} (h : RaisesOnly ks e) (hks : ks ⊆ ks') :
    RaisesOnly ks' e := fun k hk => hks (h k hk)

/-- A sequence raises what its first part raises, or what the rest does on a value of the first. -/
theorem RaisesOnly.bind {x : Eval α} {f : α → Eval β} (hx : RaisesOnly ks x)
    (hf : ∀ a, x = .ok a → RaisesOnly ks (f a)) : RaisesOnly ks (x >>= f) := by
  intro k hk
  obtain hstop | ⟨a, ha, hrest⟩ := bind_eq_error.1 hk
  · exact hx k hstop
  · exact hf a ha k hrest

/-- A sequence that ends in a computed result raises what its first part raises. -/
theorem RaisesOnly.bind_pure {x : Eval α} (hx : RaisesOnly ks x) (f : α → β) :
    RaisesOnly ks (do let a ← x; return f a) := hx.bind fun a _ => raisesOnly_ok (f a)

/-- A branch raises what its two sides raise where they are taken. -/
theorem RaisesOnly.ite {p : Prop} [Decidable p] {x y : Eval α} (hx : p → RaisesOnly ks x)
    (hy : ¬ p → RaisesOnly ks y) : RaisesOnly ks (if p then x else y) := by
  split
  · exact hx ‹p›
  · exact hy ‹¬ p›

/-- A command that ends in a next state has written a response whose status is `OK` or a kind its evaluation raises. -/
theorem RaisesOnly.answer_next {e : Eval (Word × Word)} {s t : State} (he : RaisesOnly ks e)
    (h : answer s e = .next t) : ∃ r, t = s.deliver r ∧ r.kind? ∈ none :: ks.map some := by
  obtain ⟨r, ht, ⟨w, -, rfl⟩ | ⟨k, hk, rfl⟩⟩ := Machine.answer_next h
  · exact ⟨_, ht, List.mem_cons_self⟩
  · exact ⟨_, ht, List.mem_cons_of_mem _ (List.mem_map_of_mem (he k hk))⟩

end

/-! ### The range tests -/

/-- A result that is not negative can leave the word on the upper side only. -/
theorem checkedUnsigned_raisesOnly_overflow {t : Int} (h : 0 ≤ t) : RaisesOnly [.overflow] (checkedUnsigned t) :=
  .ite (fun _ => raisesOnly_raise (by decide)) fun _ => .ite (fun hneg => absurd h (Int.not_le.2 hneg)) fun _ =>
    raisesOnly_ok _

/-- A result that does not exceed the greatest word can leave it on the lower side only. -/
theorem checkedUnsigned_raisesOnly_underflow {t : Int} (h : t ≤ wordMax) :
    RaisesOnly [.underflow] (checkedUnsigned t) :=
  .ite (fun hgt => absurd h (Int.not_le.2 hgt)) fun _ => .ite (fun _ => raisesOnly_raise (by decide)) fun _ =>
    raisesOnly_ok _

theorem checkedSigned_raisesOnly (t : Int) : RaisesOnly [.overflow, .underflow] (checkedSigned t) :=
  .ite (fun _ => raisesOnly_raise (by decide)) fun _ => .ite (fun _ => raisesOnly_raise (by decide)) fun _ =>
    raisesOnly_ok _

/-- The exact difference of two words does not exceed the greatest word. -/
theorem sub_toNat_le_wordMax (a b : Word) : (a.toNat : Int) - b.toNat ≤ wordMax := by
  unfold wordMax
  omega

/-! ### The operands and the density codec -/

theorem tickOperand_raisesOnly (w : Word) : RaisesOnly [.tickTooLow, .tickTooHigh] (tickOperand w) := by
  rw [tickOperand_eq]
  exact .ite (fun _ => raisesOnly_raise (by decide)) fun _ => .ite (fun _ => raisesOnly_raise (by decide)) fun _ =>
    raisesOnly_ok _

theorem fixOperand_raisesOnly (w : Word) : RaisesOnly [.invalidDensity] (fixOperand w) :=
  .ite (fun _ => raisesOnly_raise (by decide)) fun _ => raisesOnly_ok _

theorem volumeCheck_raisesOnly (c : Config) (i o : Nat) : RaisesOnly [.volumeTooLarge] (volumeCheck c i o) :=
  .ite (fun _ => raisesOnly_raise (by decide)) fun _ => raisesOnly_ok _

theorem densityDecode_raisesOnly (d : Nat) : RaisesOnly [.invalidDensity] (densityDecode d) := by
  by_cases h : CanonicalDensity d
  · rw [densityDecode_canonical h]
    exact raisesOnly_ok _
  · rw [densityDecode_rejects h]
    exact raisesOnly_raise (by decide)

theorem densityProduct_raisesOnly (d m : Nat) : RaisesOnly [.invalidDensity, .overflow] (densityProduct d m) :=
  ((densityDecode_raisesOnly d).mono (by decide)).bind fun _ _ =>
    (checkedUnsigned_raisesOnly_overflow (by positivity)).mono (by decide)

/-! ### Ratios and ticks -/

section
variable {ks : List ErrorKind}

theorem legalRatio_raisesOnly (r : Ratio) : RaisesOnly ks (legalRatio r) :=
  .ite (fun _ => raisesOnly_ok _) fun _ => raisesOnly_outsideDomain

theorem ratioWords_raisesOnly (r : Ratio) : RaisesOnly ks (ratioWords r) := (legalRatio_raisesOnly r).bind_pure _

theorem sentinelWords_raisesOnly (r : Ratio) : RaisesOnly ks (sentinelWords r) :=
  .ite (fun _ => raisesOnly_ok _) fun _ => raisesOnly_outsideDomain

theorem tfnr_raisesOnly (c : Config) (r : Ratio) : RaisesOnly ks (tfnr c r) := fun k hk =>
  absurd hk (tfnr_ne_raise c r k)

theorem tickOfVolumes_raisesOnly (c : Config) (a b : Word) : RaisesOnly ks (tickOfVolumes c a b) :=
  .ite (fun _ => raisesOnly_ok _) fun _ => tfnr_raisesOnly _ _

end

theorem normOperands_raisesOnly (a b : Word) :
    RaisesOnly [.zeroMantissa, .tickTooHigh, .overflow] (normOperands a b) :=
  .ite (fun _ => raisesOnly_raise (by decide)) fun _ => .ite (fun _ => raisesOnly_raise (by decide)) fun _ =>
    .ite (fun _ => raisesOnly_raise (by decide)) fun _ => raisesOnly_ok _

theorem tickOfRatio_raisesOnly (c : Config) (r : Ratio) :
    RaisesOnly [.tickTooLow, .tickTooHigh, .badOperand] (tickOfRatio c r) :=
  .ite (fun _ => raisesOnly_raise (by decide)) fun _ => .ite (fun _ => raisesOnly_raise (by decide)) fun _ =>
    .ite (fun _ => raisesOnly_raise (by decide)) fun _ => tfnr_raisesOnly _ _

/-- A normalized pair has no `BadOperand`. -/
theorem tickOfRatio_raisesOnly_of_normalized {c : Config} {r : Ratio} (h : r.normalized = true) :
    RaisesOnly [.tickTooLow, .tickTooHigh] (tickOfRatio c r) := by
  intro k hk
  have hne : k ≠ .badOperand := fun hbad => tickOfRatio_ne_badOperand h (hbad ▸ hk)
  simpa [hne] using tickOfRatio_raisesOnly c r k hk

/-! ### The amount conversions -/

theorem applyRatio_raisesOnly (c : Config) (t : Int) (amount : Nat) (up : Bool) :
    RaisesOnly [.overflow] (applyRatio c t amount up) :=
  ((legalRatio_raisesOnly _).bind fun _ _ =>
    (checkedUnsigned_raisesOnly_overflow (by positivity)).bind_pure _).bind_pure _

theorem conversion_raisesOnly (c : Config) (f : Int → Int) (up : Bool) (a b : Word) :
    RaisesOnly [.tickTooLow, .tickTooHigh, .overflow] (conversion c f up a b) :=
  ((tickOperand_raisesOnly a).mono (by decide)).bind fun _ _ =>
    ((applyRatio_raisesOnly _ _ _ _).bind_pure _).mono (by decide)

/-! ### The table of R202 -/

/-- What the command evaluates raises only the kinds that R202 lists for it beside `OK`. -/
def RaisesOnlyListed (i : Instr) (s : State) : Prop :=
  ∃ ks e, allowedStatuses i = none :: ks.map some ∧ exec i s = answer s e ∧ RaisesOnly ks e

/-- `TFR` has no `BadOperand`: the normalizer hands on a normalized pair (R175). -/
theorem tfr_raisesOnlyListed (a b : Word) (s : State) : RaisesOnlyListed (.tfr a b) s :=
  ⟨[.zeroMantissa, .tickTooLow, .tickTooHigh, .overflow], _, rfl, rfl,
    ((normOperands_raisesOnly a b).mono (by decide)).bind fun _ hr =>
      ((tickOfRatio_raisesOnly_of_normalized (Ratio.normalized_of_wordPair (wordPair_of_normOperands hr))).mono
        (by decide)).bind_pure _⟩

/-- After the ceiling test `RFV` raises nothing (R176). -/
theorem rfv_raisesOnlyListed (a b : Word) (s : State) : RaisesOnlyListed (.rfv a b) s :=
  ⟨[.volumeTooLarge], _, rfl, rfl, (volumeCheck_raisesOnly _ _ _).bind fun _ _ =>
    .ite (fun _ => sentinelWords_raisesOnly _) fun _ => .ite (fun _ => sentinelWords_raisesOnly _) fun _ =>
      ratioWords_raisesOnly _⟩

/-- After the ceiling test `TFV` raises nothing (R177). -/
theorem tfv_raisesOnlyListed (a b : Word) (s : State) : RaisesOnlyListed (.tfv a b) s :=
  ⟨[.volumeTooLarge], _, rfl, rfl, (volumeCheck_raisesOnly _ _ _).bind fun _ _ =>
    .ite (fun _ => raisesOnly_ok _) fun _ => .ite (fun _ => raisesOnly_ok _) fun _ =>
      (tickOfVolumes_raisesOnly _ _ _).bind_pure _⟩

/-- Every command, by its row of R202. -/
theorem exec_raisesOnlyListed (i : Instr) (s : State) : RaisesOnlyListed i s := by
  cases i with
  | shl | shr | not | and | or | ctz64 | fls => exact ⟨[], .ok _, rfl, rfl, raisesOnly_ok _⟩
  | addu | mulu =>
    exact ⟨[.overflow], _, rfl, rfl, (checkedUnsigned_raisesOnly_overflow (by positivity)).bind_pure _⟩
  | subu a b =>
    exact ⟨[.underflow], _, rfl, rfl, (checkedUnsigned_raisesOnly_underflow (sub_toNat_le_wordMax a b)).bind_pure _⟩
  | adds | subs | muls =>
    exact ⟨[.overflow, .underflow], _, rfl, rfl, (checkedSigned_raisesOnly _).bind_pure _⟩
  | dfrom a => exact ⟨[.invalidDensity], _, rfl, rfl, (fixOperand_raisesOnly a).bind_pure _⟩
  | dto => exact ⟨[.invalidDensity], _, rfl, rfl, (densityDecode_raisesOnly _).bind_pure _⟩
  | dmul | dmulup =>
    exact ⟨[.invalidDensity, .overflow], _, rfl, rfl, (densityProduct_raisesOnly _ _).bind_pure _⟩
  | norm a b =>
    exact ⟨[.zeroMantissa, .tickTooHigh, .overflow], _, rfl, rfl, (normOperands_raisesOnly a b).bind_pure _⟩
  | rft a =>
    exact ⟨[.tickTooLow, .tickTooHigh], _, rfl, rfl,
      (tickOperand_raisesOnly a).bind fun _ _ => ratioWords_raisesOnly _⟩
  | tfnr =>
    exact ⟨[.tickTooLow, .tickTooHigh, .badOperand], _, rfl, rfl, (tickOfRatio_raisesOnly _ _).bind_pure _⟩
  | tfr a b => exact tfr_raisesOnlyListed a b s
  | rfv a b => exact rfv_raisesOnlyListed a b s
  | tfv a b => exact tfv_raisesOnlyListed a b s
  | ifo | ifoup =>
    exact ⟨[.tickTooLow, .tickTooHigh, .overflow], _, rfl, rfl, conversion_raisesOnly _ id _ _ _⟩
  | ofi | ofiup =>
    exact ⟨[.tickTooLow, .tickTooHigh, .overflow], _, rfl, rfl, conversion_raisesOnly _ Neg.neg _ _ _⟩

/-- Settles O53: every command ends in `answer`, on an evaluation that raises only the kinds of its row of R202. -/
theorem commandsGiveOnlyTheirStatuses : Obligations.CommandsGiveOnlyTheirStatuses := by
  intro i s t h
  obtain ⟨ks, e, hstatuses, hexec, hraises⟩ := exec_raisesOnlyListed i s
  rw [hstatuses]
  exact hraises.answer_next (hexec.symm.trans h)

end Sys2Proof.Machine
end
